-- ==== Sys2Proof/Word.lean ====
section
/-! DEFINITION. The machine's words: the 32-bit word of the bus and of a command (00_scope.md R7, 30_encoding.md R80) and the byte. -/

namespace Sys2Proof

/-- A 32-bit word: bus data, a command word, the CRC accumulator. -/
abbrev Word := BitVec 32

/-- A byte of the record, of a payload or of the wire. -/
abbrev Byte := BitVec 8

end Sys2Proof
end

