-- ==== Sys2Proof/Config.lean ====
section
/-! DEFINITION. The two open parameters of 00_scope.md R7. R7: "A model takes each `OPEN` parameter as an argument". The step's type has no
argument but the state, so a machine's parameters stand in its State (`State.cfg`), where no step changes them. -/

namespace Sys2Proof

/-- What an implementation fixes once (00_scope.md R7; 92_eei_decisions.md D3, D12). -/
structure Config where
  /-- `BASE_ADDR`: the bus address of register offset 0x000. -/
  baseAddr : Nat
  /-- `OUTQ_DEPTH`: the capacity in bytes of the output queue. -/
  outqDepth : Nat
  deriving DecidableEq, Repr

/-- The range R7 gives each parameter: `BASE_ADDR` a multiple of 0x100, 5 ≤ `OUTQ_DEPTH` ≤ 255. -/
abbrev Config.Legal (c : Config) : Prop :=
  c.baseAddr % 0x100 = 0 ∧ 5 ≤ c.outqDepth ∧ c.outqDepth ≤ 255

/-- DESIGN CHOICE (log entry 1, unsafe): the parameters `State.reset` takes, since its type leaves no room for an
argument. `OUTQ_DEPTH` 8 is the depth of the spec's own vectors (95_test_vectors.md). `State.resetWith` takes any. -/
def Config.reference : Config := { baseAddr := 0, outqDepth := 8 }

end Sys2Proof
end

