-- ==== Sys2Proof/Syntax.lean ====
section
/-! DEFINITION. The eleven commands of spec/opcode_table.json (30_encoding.md R84), one constructor per row, with the operands of R81 and R82. -/

namespace Sys2Proof

/-- A command the format checks of 30_encoding.md R91 accept. -/
inductive Instr where
  /-- NOP (43_control.md R180). -/
  | nop
  /-- CRC_INIT (40_crc.md R103). -/
  | crcInit
  /-- CRC_BYTE d (40_crc.md R104). -/
  | crcByte (d : Byte)
  /-- REC_BEGIN (41_record.md R126). -/
  | recBegin
  /-- REC_PUT f, d (41_record.md R127). The 3-bit selector keeps its values 4..7: such a word matches its row and is rejected
  with BAD_FIELD when it is performed (30_encoding.md R83, R85). -/
  | recPut (f : BitVec 3) (d : Byte)
  /-- REC_DIRTY v (41_record.md R128). -/
  | recDirty (v : BitVec 1)
  /-- REC_SEAL (41_record.md R129). -/
  | recSeal
  /-- FRM_OPEN (42_framer.md R155). -/
  | frmOpen
  /-- FRM_BYTE d (42_framer.md R156). -/
  | frmByte (d : Byte)
  /-- FRM_CLOSE (42_framer.md R157). -/
  | frmClose
  /-- CLR_ERR (43_control.md R181). -/
  | clrErr
  deriving DecidableEq, Repr

end Sys2Proof
end

