-- ==== Sys2Proof/WellFormed.lean ====
section
/-! DEFINITION. Which commands are well formed: those the assembler syntax of 30_encoding.md R89 can write. The widths of the operands are in
their types; the one check left is the field selector (R83). -/

namespace Sys2Proof

/-- R83: the selector names a string field exactly when it is at most 3. -/
def validSelector (f : BitVec 3) : Bool := f.toNat ≤ 3

/-- A command R89 gives a syntax for. An ill-formed one still has a word and a meaning: its rejection with BAD_FIELD. -/
def Instr.wellFormed : Instr → Bool
  | .nop => true
  | .crcInit => true
  | .crcByte _ => true
  | .recBegin => true
  | .recPut f _ => validSelector f
  | .recDirty _ => true
  | .recSeal => true
  | .frmOpen => true
  | .frmByte _ => true
  | .frmClose => true
  | .clrErr => true

end Sys2Proof
end

