-- ==== Sys2Proof/Decode.lean ====
section
/-! DEFINITION. Command words: the decoder (30_encoding.md R80 to R88, R91), total on every 32-bit word and rejecting by name, and the encoder. -/

namespace Sys2Proof

/-- The opcodes of R84. -/
inductive Opcode where
  | nop | crcInit | crcByte | recBegin | recPut | recDirty | recSeal | frmOpen | frmByte | frmClose | clrErr
  deriving DecidableEq, Repr

/-- R84: the value of OP, bits [31:24], of each opcode. -/
def Opcode.bits : Opcode → BitVec 8
  | .nop => 0x00#8
  | .crcInit => 0x01#8
  | .crcByte => 0x02#8
  | .recBegin => 0x10#8
  | .recPut => 0x11#8
  | .recDirty => 0x12#8
  | .recSeal => 0x13#8
  | .frmOpen => 0x20#8
  | .frmByte => 0x21#8
  | .frmClose => 0x22#8
  | .clrErr => 0x7F#8

/-- R84: every opcode there is. -/
def Opcode.all : List Opcode :=
  [.nop, .crcInit, .crcByte, .recBegin, .recPut, .recDirty, .recSeal, .frmOpen, .frmByte, .frmClose, .clrErr]

/-- R84, R86: the opcode a value of OP names; the 245 other values name none. -/
def Opcode.ofBits (b : BitVec 8) : Option Opcode := Opcode.all.find? fun o => o.bits == b

/-- R85: `MBZ(op)`, the bits that must be 0 in an accepted command. -/
def Opcode.mbz : Opcode → Word
  | .nop => 0x00FFFFFF#32
  | .crcInit => 0x00FFFFFF#32
  | .crcByte => 0x00FFFF00#32
  | .recBegin => 0x00FFFFFF#32
  | .recPut => 0x00F8FF00#32
  | .recDirty => 0x00FFFFFE#32
  | .recSeal => 0x00FFFFFF#32
  | .frmOpen => 0x00FFFFFF#32
  | .frmByte => 0x00FFFF00#32
  | .frmClose => 0x00FFFFFF#32
  | .clrErr => 0x00FFFFFF#32

/-- R85: the `match` column, `op << 24`. -/
def Opcode.matchBits (o : Opcode) : Word := o.bits.setWidth 32 <<< 24

/-- R85: the `mask` column, `0xFF000000 or MBZ(op)`. -/
def Opcode.maskBits (o : Opcode) : Word := 0xFF000000#32 ||| o.mbz

/-- R81: the field OP, bits [31:24]. -/
def opField (w : Word) : BitVec 8 := w.extractLsb' 24 8

/-- R81, R82: the field F, bits [18:16]. -/
def selectorField (w : Word) : BitVec 3 := w.extractLsb' 16 3

/-- R81, R82: the field D, bits [7:0]. -/
def dataField (w : Word) : Byte := w.extractLsb' 0 8

/-- R82: REC_DIRTY's operand, bit 0. -/
def dirtyField (w : Word) : BitVec 1 := w.extractLsb' 0 1

/-- Why a word is no command: the two format checks of R91. -/
inductive DecodeError where
  /-- OP is not one of the eleven opcodes (R86). -/
  | illegalOp
  /-- A bit of `MBZ(op)` is 1 (R85). -/
  | reserved
  deriving DecidableEq, Repr

/-- R82: the command of an opcode, its operands taken from the word. -/
def Opcode.operands (w : Word) : Opcode → Instr
  | .nop => .nop
  | .crcInit => .crcInit
  | .crcByte => .crcByte (dataField w)
  | .recBegin => .recBegin
  | .recPut => .recPut (selectorField w) (dataField w)
  | .recDirty => .recDirty (dirtyField w)
  | .recSeal => .recSeal
  | .frmOpen => .frmOpen
  | .frmByte => .frmByte (dataField w)
  | .frmClose => .frmClose
  | .clrErr => .clrErr

/-- R91's format checks, in its order: the opcode, then the bits that must be zero. The result depends on the word alone (R88). -/
def decode (w : Word) : Except DecodeError Instr :=
  match Opcode.ofBits (opField w) with
  | none => .error .illegalOp
  | some o => if w &&& o.mbz = 0#32 then .ok (o.operands w) else .error .reserved

/-- The opcode of a command. -/
def Instr.opcode : Instr → Opcode
  | .nop => .nop
  | .crcInit => .crcInit
  | .crcByte _ => .crcByte
  | .recBegin => .recBegin
  | .recPut _ _ => .recPut
  | .recDirty _ => .recDirty
  | .recSeal => .recSeal
  | .frmOpen => .frmOpen
  | .frmByte _ => .frmByte
  | .frmClose => .frmClose
  | .clrErr => .clrErr

/-- R81, R89: a word of the format `CMD32`, `(op << 24) or (F << 16) or d`; the reserved fields RA and RB are zero. -/
def pack (o : Opcode) (f : BitVec 3) (d : Byte) : Word :=
  (o.bits.setWidth 32 <<< 24) ||| (f.setWidth 32 <<< 16) ||| d.setWidth 32

/-- R85, R89: the word of a command. -/
def encode : Instr → Word
  | .nop => pack .nop 0#3 0#8
  | .crcInit => pack .crcInit 0#3 0#8
  | .crcByte d => pack .crcByte 0#3 d
  | .recBegin => pack .recBegin 0#3 0#8
  | .recPut f d => pack .recPut f d
  | .recDirty v => pack .recDirty 0#3 (v.setWidth 8)
  | .recSeal => pack .recSeal 0#3 0#8
  | .frmOpen => pack .frmOpen 0#3 0#8
  | .frmByte d => pack .frmByte 0#3 d
  | .frmClose => pack .frmClose 0#3 0#8
  | .clrErr => pack .clrErr 0#3 0#8

/-- The host's question about a table row: the command decoded from `w`, numbered as the table numbers it, the bits
above `nbits` zero. A command is one 32-bit word of one bus write (R80), so its numbering is the table's. -/
def decodeTableWord (nbits w : Nat) : Option Instr :=
  match decode (BitVec.ofNat 32 (w % 2 ^ nbits)) with
  | .ok i => some i
  | .error _ => none

end Sys2Proof
end

