-- ==== Sys2Proof/Machine/State.lean ====
section
/-! DEFINITION. The machine's state as plain data: the block (10_state.md R22), what stands around it on its port and its wire (00_scope.md R11, R12),
and the state after reset (70_reset_and_hazards.md R231). -/

namespace Sys2Proof.Machine

/-- `RSTATE` (10_state.md R22, R28); the value 3 never occurs (R25). -/
inductive RState where
  | empty | building | sealed
  deriving DecidableEq, Repr

/-- Why a command is rejected (60_exceptions.md R201). -/
inductive CmdError where
  | illegalOp | rsvd | badField | recState | frmState
  deriving DecidableEq, Repr

/-- The record's string fields (30_encoding.md R83, 41_record.md R120). -/
inductive TextField where
  | commit | branch | date | time
  deriving DecidableEq, Repr

/-- `LEN_f` and `TERM_f` of one string field (10_state.md R37). -/
structure TextState where
  /-- `LEN_f`: the characters stored. -/
  len : Nat
  /-- `TERM_f`: a NUL has ended the string. -/
  term : Bool
  deriving DecidableEq, Repr

/-- The record buffer's bytes: (index, byte) cells in one canonical form, indices strictly rising and no byte 0x00, since an
unlisted index reads 0x00, the byte R231 gives every `REC[i]` (log entry 9). -/
abbrev Memory := List Host.Cell

/-- The complete state of the block, element by element (10_state.md R22). -/
structure Block where
  /-- `ACC`, the running CRC accumulator (R33). -/
  acc : Word
  /-- `REC[0..70]` (R36). -/
  record : Memory
  /-- `RSTATE` (R28). -/
  rstate : RState
  /-- `LEN_COMMIT`, `TERM_COMMIT` (R37). -/
  commit : TextState
  /-- `LEN_BRANCH`, `TERM_BRANCH` (R37). -/
  branch : TextState
  /-- `LEN_DATE`, `TERM_DATE` (R37). -/
  date : TextState
  /-- `LEN_TIME`, `TERM_TIME` (R37). -/
  time : TextState
  /-- `META` (R35). -/
  metaWord : Word
  /-- `FOPEN` (R26). -/
  fopen : Bool
  /-- `GCNT`, 0 to 2 (R27). -/
  gcnt : Fin 3
  /-- `GBUF0` (R38). -/
  gbuf0 : Byte
  /-- `GBUF1` (R38). -/
  gbuf1 : Byte
  /-- `OUTQ`, its head first (R39). -/
  outq : List Byte
  /-- `ERR` (R29). -/
  err : Bool
  /-- `ECODE` (R30). -/
  ecode : BitVec 4
  deriving DecidableEq, Repr

/-- The width of a bus access (92_eei_decisions.md D2). -/
inductive Width where
  | w8 | w16 | w32
  deriving DecidableEq, Repr

/-- One bus access of the host, at a bus address (00_scope.md R9: `MemRead`, `MemWrite`). -/
inductive Access where
  | read (width : Width) (addr : Nat)
  | write (width : Width) (addr : Nat) (value : Word)
  deriving DecidableEq, Repr

/-- The bus response of an access (20_memory.md R57). -/
inductive BusStatus where
  | okay | error
  deriving DecidableEq, Repr

/-- What the host sees of one access: its response and, of a read, the data (00_scope.md R12). -/
structure Response where
  status : BusStatus
  data : Option Word
  deriving DecidableEq, Repr

/-- Who takes a step (00_scope.md R11). -/
inductive Turn where
  | host | sink | reset
  deriving DecidableEq, Repr

/-- The pending CMD write (20_memory.md R60): none, one that is held until the sink takes a byte, or one whose next try is due
because the sink has taken one. -/
inductive Port where
  | free
  | held (w : Word)
  | retry (w : Word)
  deriving DecidableEq, Repr

/-- The machine: the block, its parameters, its port, its environment's inputs and what has been observed of it. -/
structure State where
  /-- The open parameters (00_scope.md R7). No step changes them. -/
  cfg : Config
  /-- The block's own state (10_state.md R22). -/
  blk : Block
  /-- The pending CMD write (20_memory.md R60, 70_reset_and_hazards.md R232). -/
  port : Port
  /-- The accesses the host has still to make, the next one first, in the order the bus grants them (20_memory.md R62, R65). -/
  hostq : List Access
  /-- The agents' turns to come, the next one first: the sink's schedule and the reset times (93_implementation_defined.md I4, I5). -/
  turns : List Turn
  /-- `TX`, the bytes the sink has taken, oldest first (10_state.md R41). -/
  tx : List Byte
  /-- The responses the host has received, oldest first (00_scope.md R12). -/
  responses : List Response
  deriving DecidableEq, Repr

/-- Why the machine stops. The block itself has no fault, trap or abort (60_exceptions.md R200). -/
inductive Fault where
  /-- Raised by a host turn whose access lies outside the block's window: it is no access to the block and no rule of the spec applies
  to it (20_memory.md R51). Safe: the model stops where the bus goes on (log entry 7). -/
  | outsideWindow
  deriving DecidableEq, Repr

/-- Why an instruction has no meaning in the model. -/
inductive Refusal where
  /-- Raised by an arm of exec whose instruction is not modelled. Safe. No arm raises it: every instruction has its meaning. -/
  | notModelled (mnemonic : String)
  deriving DecidableEq, Repr

/-- A string field after reset and after REC_BEGIN: nothing stored, not ended. -/
def TextState.cleared : TextState := { len := 0, term := false }

/-- 70_reset_and_hazards.md R231: every state element has the reset value of 10_state.md R22. -/
def Block.reset : Block where
  acc := 0xFFFFFFFF#32
  record := []
  rstate := .empty
  commit := .cleared
  branch := .cleared
  date := .cleared
  time := .cleared
  metaWord := 0#32
  fopen := false
  gcnt := 0
  gbuf0 := 0#8
  gbuf1 := 0#8
  outq := []
  err := false
  ecode := 0#4

/-- The machine at power-on with the parameters `c`: the block reset, the port free, nothing observed yet (10_state.md R41) and
no input of the environment listed (70_reset_and_hazards.md R234: idle, waiting for host accesses). -/
def State.resetWith (c : Config) : State where
  cfg := c
  blk := Block.reset
  port := .free
  hostq := []
  turns := []
  tx := []
  responses := []

/-- The machine right after reset, with the parameters of log entry 1. -/
def State.reset : State := State.resetWith Config.reference

end Sys2Proof.Machine
end

