-- ==== Sys2Proof/Machine/Operands.lean ====
section
/-! DEFINITION. The operands of commands: the field selector and the record layout it selects in (30_encoding.md R83, 41_record.md R120), and the
byte order of a word (20_memory.md R58). -/

namespace Sys2Proof.Machine

/-- The outcome of a step of this machine. -/
abbrev Out := Host.Outcome State Fault Refusal

/-- R83: the string field a selector names; 4..7 name none. -/
def TextField.ofSelector (f : BitVec 3) : Option TextField :=
  match f.toNat with
  | 0 => some .commit
  | 1 => some .branch
  | 2 => some .date
  | 3 => some .time
  | _ => none

/-- R83: the selector of a string field. -/
def TextField.selector : TextField → BitVec 3
  | .commit => 0#3
  | .branch => 1#3
  | .date => 2#3
  | .time => 3#3

/-- R120: the string fields in the record's order. -/
def TextField.all : List TextField := [.commit, .branch, .date, .time]

/-- R120: the offset `off_f` of a string field. -/
def TextField.offset : TextField → Nat
  | .commit => 4
  | .branch => 14
  | .date => 46
  | .time => 58

/-- R120: the width `W_f` of a string field. -/
def TextField.width : TextField → Nat
  | .commit => 9
  | .branch => 32
  | .date => 12
  | .time => 9

/-- R120: a field's capacity, `W_f - 1`: its last byte is always the terminator (R121). -/
def TextField.capacity (f : TextField) : Nat := f.width - 1

/-- R120: the offset of the dirty byte. -/
def dirtyOffset : Nat := 13

/-- R120: the offset of the crc32 field. -/
def crcOffset : Nat := 67

/-- R120: the record's size in bytes. -/
def recordSize : Nat := 71

/-- R120, 00_scope.md R10: the magic `'M','E','T','A'`. -/
def magic : List Byte := [0x4D#8, 0x45#8, 0x54#8, 0x41#8]

/-- R128: `zext_8(v)`. -/
def dirtyByte (v : BitVec 1) : Byte := v.setWidth 8

/-- 41_record.md R123: the bytes of a word, least significant first. -/
def bytesLE (w : Word) : List Byte :=
  [w.extractLsb' 0 8, w.extractLsb' 8 8, w.extractLsb' 16 8, w.extractLsb' 24 8]

/-- 20_memory.md R54: the little-endian assembly of at most four bytes, `zext_32(b_j) << (8*j)`. -/
def wordLE : List Byte → Word
  | [] => 0#32
  | b :: bs => b.setWidth 32 ||| (wordLE bs <<< 8)

/-- The bytes of an access width. -/
def Width.bytes : Width → Nat
  | .w8 => 1
  | .w16 => 2
  | .w32 => 4

end Sys2Proof.Machine
end

