-- ==== Sys2Proof/Machine/Ops.lean ====
section
/-! DEFINITION. The shared operations: reading and writing the record buffer and the string fields, the output queue, rejecting a command and
clearing the error (60_exceptions.md R203, R208), holding a write (20_memory.md R60), and the frame every command runs in (30_encoding.md R91). -/

namespace Sys2Proof.Machine

/-! ### The record buffer -/

/-- `REC[i]` (00_scope.md R9): the listed byte, or 0x00 where none is listed. -/
def Memory.read : Memory → Nat → Byte
  | [], _ => 0#8
  | (k, v) :: m, i => if k = i then v else Memory.read m i

/-- `REC[i] <- v`, in canonical form: writing 0x00 removes the cell. -/
def Memory.write : Memory → Nat → Byte → Memory
  | [], i, v => if v = 0#8 then [] else [(i, v)]
  | (k, x) :: m, i, v =>
    if k = i then (if v = 0#8 then m else (i, v) :: m)
    else if i < k then (if v = 0#8 then (k, x) :: m else (i, v) :: (k, x) :: m)
    else (k, x) :: Memory.write m i v

/-- `REC[i] <- bs[0]; REC[i + 1] <- bs[1]; ...`. -/
def Memory.writeBytes (m : Memory) (i : Nat) : List Byte → Memory
  | [] => m
  | b :: bs => Memory.writeBytes (m.write i b) (i + 1) bs

/-- The `n` bytes `REC[i .. i + n - 1]`. -/
def Memory.readBytes (m : Memory) (i n : Nat) : List Byte := (List.range n).map fun j => m.read (i + j)

/-- The canonical form: indices strictly rising, no listed byte 0x00. -/
abbrev Memory.wf (m : Memory) : Prop := m.Pairwise (fun a b => a.1 < b.1) ∧ ∀ c ∈ m, c.2 ≠ 0#8

/-! ### The string fields -/

/-- `LEN_f` and `TERM_f` (10_state.md R37). -/
def Block.text (b : Block) : TextField → TextState
  | .commit => b.commit
  | .branch => b.branch
  | .date => b.date
  | .time => b.time

/-- `LEN_f <- t.len; TERM_f <- t.term`. -/
def Block.setText (b : Block) (f : TextField) (t : TextState) : Block :=
  match f with
  | .commit => { b with commit := t }
  | .branch => { b with branch := t }
  | .date => { b with date := t }
  | .time => { b with time := t }

/-! ### The output queue -/

/-- `emit` of each byte in order: append at the tail of `OUTQ` (00_scope.md R9, 10_state.md R39). -/
def Block.emit (b : Block) (bs : List Byte) : Block := { b with outq := b.outq ++ bs }

/-! ### Rejection and its end -/

/-- 60_exceptions.md R201: the code latched in ECODE. -/
def CmdError.code : CmdError → BitVec 4
  | .illegalOp => 1#4
  | .rsvd => 2#4
  | .badField => 3#4
  | .recState => 4#4
  | .frmState => 5#4

/-- R201: the error of a word no command decodes from. -/
def errorOfDecode : DecodeError → CmdError
  | .illegalOp => .illegalOp
  | .reserved => .rsvd

/-- `raise CmdError(e)` (R203), the machine's one exception: ERR and ECODE take the first error, nothing else changes. -/
def Block.raise (b : Block) (e : CmdError) : Block := if b.err then b else { b with err := true, ecode := e.code }

/-- The way back to `ERR = 0` (R208, 43_control.md R181). -/
def Block.clearError (b : Block) : Block := { b with err := false, ecode := 0#4 }

/-! ### Commands -/

/-- A step that changes the block alone. -/
def State.withBlock (s : State) (b : Block) : State := { s with blk := b }

/-- `hold` (20_memory.md R60): the write of command `i` waits on the port, nothing else changes. -/
def State.hold (s : State) (i : Instr) : State := { s with port := .held (encode i) }

/-- What every command but NOP and CLR_ERR does (30_encoding.md R91): it is discarded while an error is latched (60_exceptions.md R204),
rejected if its check fails (R203), held while it must wait (20_memory.md R60), and otherwise has its effect. Every check stands
before the first write (00_scope.md R9). -/
def runCommand (i : Instr) (check : Block → Option CmdError) (waits : Nat → Block → Bool) (effect : Block → Block)
    (s : State) : Out :=
  if s.blk.err then .next s
  else match check s.blk with
    | some e => .next (s.withBlock (s.blk.raise e))
    | none => if waits s.cfg.outqDepth s.blk then .next (s.hold i) else .next (s.withBlock (effect s.blk))

/-- No check beyond the format checks (60_exceptions.md R201). -/
def noCheck : Block → Option CmdError := fun _ => none

/-- A command that emits nothing is never held (42_framer.md R159). -/
def neverWaits : Nat → Block → Bool := fun _ _ => false

/-! ### Responses -/

/-- The host sees the response of an access (00_scope.md R12). -/
def State.respond (s : State) (r : Response) : State := { s with responses := s.responses ++ [r] }

end Sys2Proof.Machine
end

