-- ==== Sys2Proof/Machine/Flags.lean ====
section
/-! DEFINITION. The STATUS register computed from the block's state (10_state.md R25 to R32). -/

namespace Sys2Proof.Machine

/-- R22: EMPTY = 0, BUILDING = 1, SEALED = 2. -/
def RState.bits : RState → BitVec 2
  | .empty => 0#2
  | .building => 1#2
  | .sealed => 2#2

/-- A one-bit state element as a word. -/
def flagWord (b : Bool) : Word := if b then 1#32 else 0#32

/-- R31: OQCNT, the length of `OUTQ`. Log entry 11: in a state no run reaches, whose queue exceeds 255 bytes, the field keeps the low eight bits,
so that the reserved bits above it still read 0 (R32). -/
def Block.oqcnt (b : Block) : BitVec 8 := BitVec.ofNat 8 b.outq.length

/-- R25: `zext_32(FOPEN) or (GCNT << 1) or (RSTATE << 4) or (ERR << 8) or (ECODE << 12) or (|OUTQ| << 16)`. -/
def Block.status (b : Block) : Word :=
  flagWord b.fopen
    ||| (BitVec.ofNat 32 b.gcnt.val <<< 1)
    ||| (b.rstate.bits.setWidth 32 <<< 4)
    ||| (flagWord b.err <<< 8)
    ||| (b.ecode.setWidth 32 <<< 12)
    ||| (b.oqcnt.setWidth 32 <<< 16)

end Sys2Proof.Machine
end

