-- ==== Sys2Proof/Machine/Control.lean ====
section
/-! DEFINITION. The control commands (43_control.md): the meanings of NOP and CLR_ERR, the two commands an error latch does not discard. -/

namespace Sys2Proof.Machine

/-- NOP (R180): nothing, in every state. -/
def execNop (s : State) : Out := .next s

/-- CLR_ERR (R181): ERR and ECODE are cleared, in every state. -/
def execClrErr (s : State) : Out := .next (s.withBlock s.blk.clearError)

end Sys2Proof.Machine
end

