-- ==== Sys2Proof/Machine/Framer.lean ====
section
/-! DEFINITION. The framer (42_framer.md): the Base64 functions and the frame, and the meanings of FRM_OPEN, FRM_BYTE and FRM_CLOSE. -/

namespace Sys2Proof.Machine

/-- 00_scope.md R10: `'$'`. -/
def dollar : Byte := 0x24#8

/-- 00_scope.md R10: `'\n'`. -/
def newline : Byte := 0x0A#8

/-- R151: the pad character `'='`. -/
def padChar : Byte := 0x3D#8

/-- R151: the character of a 6-bit index. -/
def b64Char (i : BitVec 6) : Byte :=
  if i ≤ 25#6 then 0x41#8 + i.setWidth 8
  else if i ≤ 51#6 then 0x61#8 + (i.setWidth 8 - 26#8)
  else if i ≤ 61#6 then 0x30#8 + (i.setWidth 8 - 52#8)
  else if i = 62#6 then 0x2B#8
  else 0x2F#8

/-- R152: the 24 bits of a group, `b0 << 16 or b1 << 8 or b2`. -/
def group (b0 b1 b2 : Byte) : BitVec 24 :=
  (b0.setWidth 24 <<< 16) ||| (b1.setWidth 24 <<< 8) ||| b2.setWidth 24

/-- R152: a full group. -/
def enc3 (b0 b1 b2 : Byte) : List Byte :=
  let g := group b0 b1 b2
  [b64Char (g.extractLsb' 18 6), b64Char (g.extractLsb' 12 6), b64Char (g.extractLsb' 6 6), b64Char (g.extractLsb' 0 6)]

/-- R153: a final group of one byte. -/
def enc1 (b0 : Byte) : List Byte :=
  let g := group b0 0#8 0#8
  [b64Char (g.extractLsb' 18 6), b64Char (g.extractLsb' 12 6), padChar, padChar]

/-- R154: a final group of two bytes. -/
def enc2 (b0 b1 : Byte) : List Byte :=
  let g := group b0 b1 0#8
  [b64Char (g.extractLsb' 18 6), b64Char (g.extractLsb' 12 6), b64Char (g.extractLsb' 6 6), padChar]

/-- R154: the Base64 text of a byte sequence. -/
def b64 : List Byte → List Byte
  | [] => []
  | [b0] => enc1 b0
  | [b0, b1] => enc2 b0 b1
  | b0 :: b1 :: b2 :: p => enc3 b0 b1 b2 ++ b64 p

/-- R150: the frame of a payload. -/
def frame (p : List Byte) : List Byte := [dollar] ++ b64 p ++ [newline]

/-- The payload bytes of the open frame not yet encoded (10_state.md R27, R38). -/
def Block.pending (b : Block) : List Byte :=
  match b.gcnt with
  | 0 => []
  | 1 => [b.gbuf0]
  | 2 => [b.gbuf0, b.gbuf1]

/-- R153, R154: the tail FRM_CLOSE emits before the newline. -/
def Block.tail (b : Block) : List Byte :=
  match b.gcnt with
  | 0 => []
  | 1 => enc1 b.gbuf0
  | 2 => enc2 b.gbuf0 b.gbuf1

/-- FRM_STATE of FRM_OPEN: a frame is open already (60_exceptions.md R201). -/
def needsNoFrame (b : Block) : Option CmdError := if b.fopen then some .frmState else none

/-- FRM_STATE of FRM_BYTE and FRM_CLOSE: no frame is open (60_exceptions.md R201). -/
def needsFrame (b : Block) : Option CmdError := if b.fopen then none else some .frmState

/-- R155: FRM_OPEN waits until the previous frame has left `OUTQ`. -/
def frmOpenWaits : Nat → Block → Bool := fun _ b => 0 < b.outq.length

/-- R155: the effect of FRM_OPEN. -/
def frmOpenEffect (b : Block) : Block := { b.emit [dollar] with fopen := true, gcnt := 0 }

/-- FRM_OPEN (R155). -/
def execFrmOpen (s : State) : Out := runCommand .frmOpen needsNoFrame frmOpenWaits frmOpenEffect s

/-- R156: FRM_BYTE waits only where it completes a group and fewer than four bytes of `OUTQ` are free. -/
def frmByteWaits : Nat → Block → Bool := fun depth b =>
  match b.gcnt with
  | 0 => false
  | 1 => false
  | 2 => depth < b.outq.length + 4

/-- R156: the effect of FRM_BYTE. -/
def frmByteEffect (d : Byte) (b : Block) : Block :=
  match b.gcnt with
  | 0 => { b with gbuf0 := d, gcnt := 1 }
  | 1 => { b with gbuf1 := d, gcnt := 2 }
  | 2 => { b.emit (enc3 b.gbuf0 b.gbuf1 d) with gbuf0 := 0#8, gbuf1 := 0#8, gcnt := 0 }

/-- FRM_BYTE d (R156). -/
def execFrmByte (d : Byte) (s : State) : Out := runCommand (.frmByte d) needsFrame frmByteWaits (frmByteEffect d) s

/-- R157: `k = 1 if GCNT = 0 else 5`. -/
def frmCloseBytes (b : Block) : Nat := if b.gcnt = 0 then 1 else 5

/-- R157: FRM_CLOSE waits while fewer than `k` bytes of `OUTQ` are free. -/
def frmCloseWaits : Nat → Block → Bool := fun depth b => depth < b.outq.length + frmCloseBytes b

/-- R157: the effect of FRM_CLOSE. -/
def frmCloseEffect (b : Block) : Block :=
  { b.emit (b.tail ++ [newline]) with gbuf0 := 0#8, gbuf1 := 0#8, gcnt := 0, fopen := false }

/-- FRM_CLOSE (R157). -/
def execFrmClose (s : State) : Out := runCommand .frmClose needsFrame frmCloseWaits frmCloseEffect s

end Sys2Proof.Machine
end

