-- ==== Sys2Proof/Machine/Crc.lean ====
section
/-! DEFINITION. The CRC engine (40_crc.md): the CRC function, and the meanings of CRC_INIT and CRC_BYTE. -/

namespace Sys2Proof.Machine

/-- R100: the polynomial constant applied after a right shift. -/
def crcPoly : Word := 0xEDB88320#32

/-- R100: the initial accumulator and the final XOR. -/
def crcOnes : Word := 0xFFFFFFFF#32

/-- R101: one bit: the low bit is tested before a logical right shift. -/
def crcBit (a : Word) : Word := if a.getLsbD 0 then (a >>> 1) ^^^ crcPoly else a >>> 1

/-- R101: `repeat n times`. -/
def crcBits : Nat → Word → Word
  | 0, a => a
  | n + 1, a => crcBits n (crcBit a)

/-- R101: one byte step. -/
def crcStep (a : Word) (b : Byte) : Word := crcBits 8 (a ^^^ b.setWidth 32)

/-- R102: the accumulator over a byte sequence. -/
def crcAcc (a : Word) (s : List Byte) : Word := s.foldl crcStep a

/-- R102: the CRC-32 of a byte sequence. -/
def crc32 (s : List Byte) : Word := crcAcc crcOnes s ^^^ crcOnes

/-- 10_state.md R34: CRC_OUT, `ACC xor 0xFFFFFFFF`. -/
def Block.crcOut (b : Block) : Word := b.acc ^^^ crcOnes

/-- R103: the effect of CRC_INIT. -/
def crcInitEffect (b : Block) : Block := { b with acc := crcOnes }

/-- R104: the effect of CRC_BYTE. -/
def crcByteEffect (d : Byte) (b : Block) : Block := { b with acc := crcStep b.acc d }

/-- CRC_INIT (R103): no state check, never held. -/
def execCrcInit (s : State) : Out := runCommand .crcInit noCheck neverWaits crcInitEffect s

/-- CRC_BYTE d (R104): no state check, never held. -/
def execCrcByte (d : Byte) (s : State) : Out := runCommand (.crcByte d) noCheck neverWaits (crcByteEffect d) s

end Sys2Proof.Machine
end

