-- ==== Sys2Proof/Machine/Record.lean ====
section
/-! DEFINITION. The record assembler (41_record.md): the CRC payload and the meanings of REC_BEGIN, REC_PUT, REC_DIRTY and REC_SEAL. -/

namespace Sys2Proof.Machine

/-- The characters stored in a string field, `REC[off_f .. off_f + LEN_f - 1]`. -/
def Block.textBytes (b : Block) (f : TextField) : List Byte := b.record.readBytes f.offset (b.text f).len

/-- R122: `payload()`, the bytes the record's CRC covers. -/
def Block.payload (b : Block) : List Byte :=
  b.textBytes .commit ++ [b.record.read dirtyOffset] ++ b.textBytes .branch ++ b.textBytes .date ++ b.textBytes .time

/-- REC_STATE: the command needs a record being built (60_exceptions.md R201). -/
def needsBuilding (b : Block) : Option CmdError := if b.rstate = .building then none else some .recState

/-- R126: the effect of REC_BEGIN: the magic, every other byte 0x00, every string field cleared. -/
def recBeginEffect (b : Block) : Block :=
  { b with
    record := Memory.writeBytes [] 0 magic
    commit := .cleared
    branch := .cleared
    date := .cleared
    time := .cleared
    rstate := .building }

/-- REC_BEGIN (R126): no state check, never held. -/
def execRecBegin (s : State) : Out := runCommand .recBegin noCheck neverWaits recBeginEffect s

/-- R127: the effect of REC_PUT on a string field: dropped where the string has ended or the field is full, ended by a NUL,
otherwise appended. -/
def putEffect (f : TextField) (d : Byte) (b : Block) : Block :=
  let t := b.text f
  if t.term ∨ t.len = f.capacity then b
  else if d = 0#8 then b.setText f { t with term := true }
  else { b with record := b.record.write (f.offset + t.len) d }.setText f { t with len := t.len + 1 }

/-- REC_PUT's checks: BAD_FIELD (30_encoding.md R83), then REC_STATE (R127). -/
def recPutCheck (f : BitVec 3) (b : Block) : Option CmdError :=
  match TextField.ofSelector f with
  | none => some .badField
  | some _ => needsBuilding b

/-- R127: the effect of REC_PUT with the selector `f`. A selector that names no field has none: the check rejects it. -/
def recPutEffect (f : BitVec 3) (d : Byte) (b : Block) : Block :=
  match TextField.ofSelector f with
  | none => b
  | some x => putEffect x d b

/-- REC_PUT f, d (R127): never held. -/
def execRecPut (f : BitVec 3) (d : Byte) (s : State) : Out :=
  runCommand (.recPut f d) (recPutCheck f) neverWaits (recPutEffect f d) s

/-- R128: the effect of REC_DIRTY. -/
def recDirtyEffect (v : BitVec 1) (b : Block) : Block := { b with record := b.record.write dirtyOffset (dirtyByte v) }

/-- REC_DIRTY v (R128): never held. -/
def execRecDirty (v : BitVec 1) (s : State) : Out :=
  runCommand (.recDirty v) needsBuilding neverWaits (recDirtyEffect v) s

/-- R129: the effect of REC_SEAL: the accumulator over the payload, and its final value stored least significant byte first (R123). -/
def recSealEffect (b : Block) : Block :=
  let a := crcAcc crcOnes b.payload
  { b with acc := a, record := b.record.writeBytes crcOffset (bytesLE (a ^^^ crcOnes)), rstate := .sealed }

/-- REC_SEAL (R129): never held. -/
def execRecSeal (s : State) : Out := runCommand .recSeal needsBuilding neverWaits recSealEffect s

end Sys2Proof.Machine
end

