-- ==== Sys2Proof/Machine/Dispatch.lean ====
section
/-! DEFINITION. The meaning of each command, one arm per constructor of Instr (30_encoding.md R84, R91). -/

namespace Sys2Proof.Machine

def exec (i : Instr) (s : State) : Host.Outcome State Fault Refusal :=
  match i with
  | .nop => Sys2Proof.Machine.execNop s
  | .crcInit => Sys2Proof.Machine.execCrcInit s
  | .crcByte d => Sys2Proof.Machine.execCrcByte d s
  | .recBegin => Sys2Proof.Machine.execRecBegin s
  | .recPut f d => Sys2Proof.Machine.execRecPut f d s
  | .recDirty v => Sys2Proof.Machine.execRecDirty v s
  | .recSeal => Sys2Proof.Machine.execRecSeal s
  | .frmOpen => Sys2Proof.Machine.execFrmOpen s
  | .frmByte d => Sys2Proof.Machine.execFrmByte d s
  | .frmClose => Sys2Proof.Machine.execFrmClose s
  | .clrErr => Sys2Proof.Machine.execClrErr s

end Sys2Proof.Machine
end

