-- ==== Sys2Proof/Machine/Perform.lean ====
section
/-! DEFINITION. `Perform(w)`, the function every CMD write runs (30_encoding.md R91), and the hold check of 20_memory.md R60 as that rule words it. -/

namespace Sys2Proof.Machine

/-- R91, 60_exceptions.md R204: the opcodes that an error latch does not discard, 0x00 and 0x7F. -/
def exemptOp (op : BitVec 8) : Bool := op == Opcode.nop.bits || op == Opcode.clrErr.bits

/-- R91: discard, format checks, then the command's own rule. -/
def perform (w : Word) (s : State) : Out :=
  if s.blk.err && !exemptOp (opField w) then .next s
  else match decode w with
    | .error e => .next (s.withBlock (s.blk.raise (errorOfDecode e)))
    | .ok i => exec i s

/-- The check a command makes after the format checks: BAD_FIELD and its state check (60_exceptions.md R202). -/
def commandCheck : Instr → Block → Option CmdError
  | .nop => noCheck
  | .crcInit => noCheck
  | .crcByte _ => noCheck
  | .recBegin => noCheck
  | .recPut f _ => recPutCheck f
  | .recDirty _ => needsBuilding
  | .recSeal => needsBuilding
  | .frmOpen => needsNoFrame
  | .frmByte _ => needsFrame
  | .frmClose => needsFrame
  | .clrErr => noCheck

/-- The hold check of a command that passes its checks, given `OUTQ_DEPTH` (42_framer.md R155 to R157, R159). -/
def commandWaits : Instr → Nat → Block → Bool
  | .nop => neverWaits
  | .crcInit => neverWaits
  | .crcByte _ => neverWaits
  | .recBegin => neverWaits
  | .recPut _ _ => neverWaits
  | .recDirty _ => neverWaits
  | .recSeal => neverWaits
  | .frmOpen => frmOpenWaits
  | .frmByte _ => frmByteWaits
  | .frmClose => frmCloseWaits
  | .clrErr => neverWaits

/-- The effect of a command that passes its checks and is not held. -/
def commandEffect : Instr → Block → Block
  | .nop => id
  | .crcInit => crcInitEffect
  | .crcByte d => crcByteEffect d
  | .recBegin => recBeginEffect
  | .recPut f d => recPutEffect f d
  | .recDirty v => recDirtyEffect v
  | .recSeal => recSealEffect
  | .frmOpen => frmOpenEffect
  | .frmByte d => frmByteEffect d
  | .frmClose => frmCloseEffect
  | .clrErr => Block.clearError

/-- A command that is executed, possibly after a hold: neither discarded nor rejected (60_exceptions.md R202). -/
def executes (i : Instr) (b : Block) : Bool := (!b.err || exemptOp i.opcode.bits) && (commandCheck i b).isNone

/-- `k` of 42_framer.md R159: the bytes a command that passes its checks appends to `OUTQ`. -/
def emitCount : Instr → Block → Nat
  | .frmOpen, _ => 1
  | .frmByte _, b => if b.gcnt = 2 then 4 else 0
  | .frmClose, b => if b.gcnt = 0 then 1 else 5
  | .nop, _ => 0
  | .crcInit, _ => 0
  | .crcByte _, _ => 0
  | .recBegin, _ => 0
  | .recPut _ _, _ => 0
  | .recDirty _, _ => 0
  | .recSeal, _ => 0
  | .clrErr, _ => 0

/-- `Blocked(w)` of 20_memory.md R60 for a decoded command: only a command that is executed can be blocked, and FRM_OPEN waits
for an empty queue. -/
def blocked (i : Instr) (depth : Nat) (b : Block) : Bool :=
  executes i b && (if i = .frmOpen then 0 < b.outq.length else depth < b.outq.length + emitCount i b)

end Sys2Proof.Machine
end

