-- ==== Sys2Proof/Machine/Bus.lean ====
section
/-! DEFINITION. The bus port (20_memory.md): the values of admitted reads, the effects of admitted writes, ERROR responses, and the window. -/

namespace Sys2Proof.Machine

/-- 10_state.md R23: the offset of CMD. -/
def cmdOffset : Nat := 0x000

/-- 10_state.md R23: the offset of STATUS. -/
def statusOffset : Nat := 0x004

/-- 10_state.md R23: the offset of CRC_ACC. -/
def crcAccOffset : Nat := 0x008

/-- 10_state.md R23: the offset of CRC_OUT. -/
def crcOutOffset : Nat := 0x00C

/-- 10_state.md R23: the offset of FRM_META. -/
def frmMetaOffset : Nat := 0x010

/-- 10_state.md R23: the first offset of the REC window. -/
def recBase : Nat := 0x080

/-- 10_state.md R23: the last offset of the REC window. -/
def recLast : Nat := 0x0C7

/-- R54: `B(o)`: `REC[o - 0x80]`, and 0x00 at the window's last offset. -/
def Block.windowByte (b : Block) (o : Nat) : Byte := if o = recLast then 0#8 else b.record.read (o - recBase)

/-- R54: `ReadRec(off, n)`. -/
def Block.readRec (b : Block) (off n : Nat) : Word := wordLE ((List.range n).map fun j => b.windowByte (off + j))

/-- R56: a 32-bit read of a register; CMD and every other offset have none. -/
def Block.readRegister (b : Block) (off : Nat) : Option Word :=
  if off = statusOffset then some b.status
  else if off = crcAccOffset then some b.acc
  else if off = crcOutOffset then some b.crcOut
  else if off = frmMetaOffset then some b.metaWord
  else none

/-- R52 to R56: the value of an admitted read at an offset of the window; none where the response is ERROR. -/
def Block.readValue (b : Block) (width : Width) (off : Nat) : Option Word :=
  if recBase ≤ off ∧ off ≤ recLast then (if off % width.bytes = 0 then some (b.readRec off width.bytes) else none)
  else match width with
    | .w8 => none
    | .w16 => none
    | .w32 => b.readRegister off

/-- R57: the response of a read: OKAY with its value, or ERROR with 0x00000000. -/
def readResponse : Option Word → Response
  | some v => { status := .okay, data := some v }
  | none => { status := .error, data := some 0#32 }

/-- The response of a write. -/
def writeResponse (r : BusStatus) : Response := { status := r, data := none }

/-- A read (R57, R63): a response and no other change. -/
def busRead (width : Width) (off : Nat) (s : State) : State := s.respond (readResponse (s.blk.readValue width off))

/-- R61: a write of FRM_META. -/
def Block.setMeta (b : Block) (v : Word) : Block := { b with metaWord := v }

/-- The response OKAY of a CMD write that is complete (R59); none while the write is held (R60). -/
def acknowledge (s : State) : State :=
  match s.port with
  | .free => s.respond (writeResponse .okay)
  | .held _ => s
  | .retry _ => s

/-- One try of a CMD write (R59, R60): it is performed as one atomic step, or held. -/
def tryCommand (w : Word) (s : State) : Out :=
  match perform w { s with port := .free } with
  | .next t => .next (acknowledge t)
  | .fault r => .fault r
  | .refused r => .refused r

/-- A write (R52, R56, R57): the two admitted ones are the 32-bit writes of CMD and of FRM_META. -/
def busWrite (width : Width) (off : Nat) (v : Word) (s : State) : Out :=
  if width = .w32 ∧ off = cmdOffset then tryCommand v s
  else if width = .w32 ∧ off = frmMetaOffset then .next ((s.withBlock (s.blk.setMeta v)).respond (writeResponse .okay))
  else .next (s.respond (writeResponse .error))

/-- R51: the offset of a bus address in the block's window. -/
def windowOffset (c : Config) (addr : Nat) : Option Nat :=
  if c.baseAddr ≤ addr ∧ addr ≤ c.baseAddr + 0xFF then some (addr - c.baseAddr) else none

/-- One access of the host (R51): an address outside the window is no access to the block. -/
def hostAccess (a : Access) (s : State) : Out :=
  match a with
  | .read width addr =>
    match windowOffset s.cfg addr with
    | none => .fault .outsideWindow
    | some off => .next (busRead width off s)
  | .write width addr v =>
    match windowOffset s.cfg addr with
    | none => .fault .outsideWindow
    | some off => busWrite width off v s

end Sys2Proof.Machine
end

