-- ==== Sys2Proof/Machine/Agents.lean ====
section
/-! DEFINITION. The steps of the three agents (00_scope.md R11): the host's turn, the sink's take (42_framer.md R160) and reset (70_reset_and_hazards.md R230 to R233). -/

namespace Sys2Proof.Machine

/-- The next turn and the turns after it. Where no turn is listed the host has it (log entry 2). -/
def nextTurn : List Turn → Turn × List Turn
  | [] => (.host, [])
  | t :: ts => (t, ts)

/-- R231 to R233: every element of the block at its reset value, a held write abandoned, the bytes in `OUTQ` discarded; `TX` stays
(10_state.md R41), and so does what the host has still to do. -/
def resetStep (s : State) : State := { s with blk := Block.reset, port := .free }

/-- 20_memory.md R60: after a sink take a held write's next try is due. -/
def Port.wake : Port → Port
  | .free => .free
  | .held w => .retry w
  | .retry w => .retry w

/-- R160: the sink takes the byte at the head of `OUTQ`. With an empty queue it has no step (log entry 4). -/
def sinkTake (s : State) : State :=
  match s.blk.outq with
  | [] => s
  | b :: q => { s with blk := { s.blk with outq := q }, tx := s.tx ++ [b], port := s.port.wake }

/-- The host's turn: its next access, if it has one and no write of its own is pending (20_memory.md R60, R62; log entry 4). -/
def hostTurn (s : State) : Out :=
  match s.port with
  | .held _ => .next s
  | .retry _ => .next s
  | .free =>
    match s.hostq with
    | [] => .next s
    | a :: q => hostAccess a { s with hostq := q }

/-- One step (60_exceptions.md R209): reset wins over a pending write; a try that is due comes before the sink's turn, which stays, and is what
the host's turn does (log entry 5); else the sink or the host has its turn. -/
def nextStep (s : State) : Out :=
  match nextTurn s.turns with
  | (.reset, ts) => .next { resetStep s with turns := ts }
  | (.sink, ts) =>
    match s.port with
    | .retry w => tryCommand w s
    | .held _ => .next (sinkTake { s with turns := ts })
    | .free => .next (sinkTake { s with turns := ts })
  | (.host, ts) =>
    match s.port with
    | .retry w => tryCommand w { s with turns := ts }
    | .held _ => hostTurn { s with turns := ts }
    | .free => hostTurn { s with turns := ts }

/-- The CMD write that puts the command word `w` on the port. -/
def cmdWrite (c : Config) (w : Word) : Access := .write .w32 (c.baseAddr + cmdOffset) w

end Sys2Proof.Machine
end

