-- ==== Sys2Proof/Machine/Step.lean ====
section
/-! DEFINITION. The step of the machine, and the host's way of giving it a command. -/

namespace Sys2Proof.Machine

/-- One step of one agent (00_scope.md R11; 60_exceptions.md R209). -/
def step (s : State) : Host.Outcome State Fault Refusal := nextStep s

/-- `s` with the host's next access a CMD write of `w`, the port free and the turn the host's, so that the next step performs the
command. The block fetches nothing (10_state.md R21): a command comes to it as a CMD write (log entry 10). -/
def State.withFetchWord (s : State) (nbits w : Nat) : State :=
  { s with
    port := .free
    turns := .host :: s.turns
    hostq := cmdWrite s.cfg (BitVec.ofNat 32 (w % 2 ^ nbits)) :: s.hostq }

end Sys2Proof.Machine
end

