-- ==== Sys2Proof/Machine/Asm.lean ====
section
/-! DEFINITION. The assembler lines of 30_encoding.md R89 and the pseudo-instructions of R90: their text, and the bus accesses each line stands for. -/

namespace Sys2Proof.Machine

/-! ### R90: pseudo-instructions and their expansions -/

/-- `CRC.STR` and `CRC.BYTES`. -/
def crcBytes (bs : List Byte) : List Instr := bs.map .crcByte

/-- `REC.STR field, "s"`. -/
def recStr (f : TextField) (s : List Byte) : List Instr := s.map (.recPut f.selector)

/-- `REC.BUILD "c", v, "b", "d", "t"`. -/
def recBuild (c : List Byte) (v : BitVec 1) (b d t : List Byte) : List Instr :=
  [.recBegin] ++ recStr .commit c ++ [.recDirty v] ++ recStr .branch b ++ recStr .date d ++ recStr .time t ++ [.recSeal]

/-- `FRM.SEND b0, ..., bn-1`. -/
def frmSend (p : List Byte) : List Instr := [.frmOpen] ++ p.map .frmByte ++ [.frmClose]

/-- `FRM.TOKEN t`, the token's bytes least significant first. -/
def frmToken (t : Word) : List Instr := frmSend (bytesLE t)

/-! ### R89: lines -/

/-- One line of assembler. -/
inductive AsmLine where
  | command (i : Instr)
  | word (w : Word)
  | crcBytes (bs : List Byte)
  | recStr (f : TextField) (s : List Byte)
  | recBuild (c : List Byte) (v : BitVec 1) (b d t : List Byte)
  | frmSend (p : List Byte)
  | frmToken (t : Word)
  | ldStatus
  | ldAcc
  | ldOut
  | ldMeta
  | ldRec (width : Width) (i : Nat)
  | stMeta (v : Word)
  deriving DecidableEq, Repr

/-- The CMD writes of a command sequence, each a separate bus write (R90). -/
def cmdWrites (c : Config) (is : List Instr) : List Access := is.map fun i => .write .w32 (c.baseAddr + cmdOffset) (encode i)

/-- R89, R90: the accesses a line stands for. -/
def AsmLine.accesses (c : Config) : AsmLine → List Access
  | .command i => cmdWrites c [i]
  | .word w => [.write .w32 (c.baseAddr + cmdOffset) w]
  | .crcBytes bs => cmdWrites c (Machine.crcBytes bs)
  | .recStr f s => cmdWrites c (Machine.recStr f s)
  | .recBuild cm v b d t => cmdWrites c (Machine.recBuild cm v b d t)
  | .frmSend p => cmdWrites c (Machine.frmSend p)
  | .frmToken t => cmdWrites c (Machine.frmToken t)
  | .ldStatus => [.read .w32 (c.baseAddr + statusOffset)]
  | .ldAcc => [.read .w32 (c.baseAddr + crcAccOffset)]
  | .ldOut => [.read .w32 (c.baseAddr + crcOutOffset)]
  | .ldMeta => [.read .w32 (c.baseAddr + frmMetaOffset)]
  | .ldRec width i => [.read width (c.baseAddr + recBase + i)]
  | .stMeta v => [.write .w32 (c.baseAddr + frmMetaOffset) v]

/-- The host sends a program's lines in order. -/
def State.withProgram (s : State) (lines : List AsmLine) : State :=
  { s with hostq := s.hostq ++ lines.flatMap (AsmLine.accesses s.cfg) }

/-! ### R89: the text of a line -/

/-- A token of a line. -/
inductive Token where
  | name (cs : List Char)
  | num (n : Nat)
  | str (s : List Byte)
  | comma
  deriving DecidableEq, Repr

/-- What the scanner is inside of. -/
inductive Scan where
  | between
  | word (rev : List Char)
  | str (rev : List Char)
  | chr (seen : List Char)
  deriving DecidableEq, Repr

/-- The byte of a character of a string, an ASCII code (00_scope.md R10). -/
def charByte? (c : Char) : Option Byte := if c.toNat < 128 then some (BitVec.ofNat 8 c.toNat) else none

/-- The value of a digit. -/
def digitValue? (c : Char) : Option Nat :=
  if '0' ≤ c ∧ c ≤ '9' then some (c.toNat - 48)
  else if 'a' ≤ c ∧ c ≤ 'f' then some (c.toNat - 87)
  else if 'A' ≤ c ∧ c ≤ 'F' then some (c.toNat - 55)
  else none

/-- A numeral to a base, most significant digit first. -/
def numeral? (base : Nat) : Nat → List Char → Option Nat
  | n, [] => some n
  | n, c :: cs =>
    match digitValue? c with
    | none => none
    | some d => if d < base then numeral? base (base * n + d) cs else none

/-- A word of the text: a number in decimal or `0x` hexadecimal, or a name. -/
def wordToken? (cs : List Char) : Option Token :=
  match cs with
  | '0' :: 'x' :: [] => none
  | '0' :: 'x' :: ds => (numeral? 16 0 ds).map .num
  | c :: _ => if '0' ≤ c ∧ c ≤ '9' then (numeral? 10 0 cs).map .num else some (.name cs)
  | [] => none

/-- A character literal: a character, or the newline written with a backslash (00_scope.md R10). DESIGN CHOICE (log entry 13): R10's NUL has no
literal and is written as the number 0; a backslash alone is the byte 0x5C. -/
def charToken? : List Char → Option Token
  | ['\\', 'n'] => some (.num 10)
  | [c] => (charByte? c).map fun b => .num b.toNat
  | _ => none

/-- The tokens of a line; `;` starts a comment. DESIGN CHOICE (log entry 13): a quoted string has no escapes, so a backslash in it is the byte 0x5C
and the next `"` ends it; `,` and `;` in a string or a character literal are its characters; an apostrophe right after the opening one of a character
literal is its character, so `'''` is the byte 0x27; the space alone separates tokens. -/
def scan : Scan → List Char → Option (List Token)
  | .between, [] => some []
  | .word rev, [] => (wordToken? rev.reverse).map fun t => [t]
  | .str _, [] => none
  | .chr _, [] => none
  | .between, c :: cs =>
    if c = ' ' then scan .between cs
    else if c = ',' then (scan .between cs).map (Token.comma :: ·)
    else if c = ';' then some []
    else if c = '"' then scan (.str []) cs
    else if c = '\'' then scan (.chr []) cs
    else scan (.word [c]) cs
  | .word rev, c :: cs =>
    match wordToken? rev.reverse with
    | none => if c = ' ' ∨ c = ',' ∨ c = ';' then none else scan (.word (c :: rev)) cs
    | some t =>
      if c = ' ' then (scan .between cs).map (t :: ·)
      else if c = ',' then (scan .between cs).map (t :: Token.comma :: ·)
      else if c = ';' then some [t]
      else scan (.word (c :: rev)) cs
  | .str rev, c :: cs =>
    if c = '"' then
      match rev.reverse.mapM charByte? with
      | none => none
      | some s => (scan .between cs).map (Token.str s :: ·)
    else scan (.str (c :: rev)) cs
  | .chr seen, c :: cs =>
    if c = '\'' ∧ seen ≠ [] then
      match charToken? seen with
      | none => none
      | some t => (scan .between cs).map (t :: ·)
    else scan (.chr (seen ++ [c])) cs

/-- R89: the name of a string field. -/
def fieldName? (cs : List Char) : Option TextField :=
  if cs = "commit".toList then some .commit
  else if cs = "branch".toList then some .branch
  else if cs = "date".toList then some .date
  else if cs = "time".toList then some .time
  else none

/-- R89: a byte operand, 0..255. -/
def byteOperand? (n : Nat) : Option Byte := if n < 256 then some (BitVec.ofNat 8 n) else none

/-- R89: a dirty operand, 0 or 1. -/
def dirtyOperand? (n : Nat) : Option (BitVec 1) := if n < 2 then some (BitVec.ofNat 1 n) else none

/-- A 32-bit operand. -/
def wordOperand? (n : Nat) : Option Word := if n < 2 ^ 32 then some (BitVec.ofNat 32 n) else none

/-- One or more byte operands separated by commas. DESIGN CHOICE (log entry 13): CRC.BYTES with no operand is no line, since R90 gives `n = 0` for
FRM.SEND alone. -/
def byteList? : List Token → Option (List Byte)
  | [.num n] => (byteOperand? n).map fun b => [b]
  | .num n :: .comma :: ts =>
    match byteOperand? n with
    | none => none
    | some b => (byteList? ts).map (b :: ·)
  | _ => none

/-- The host's register of an `LD` line is the host's, not the block's (95_test_vectors.md section 3): nothing, or a name. -/
def hostRegister? : List Token → Bool
  | [] => true
  | [.name _] => true
  | _ => false

/-- An `LD.REC` line's window offset, then perhaps a host register. DESIGN CHOICE (log entry 13): an offset past the window's last byte, above 0x47,
is no line; a misaligned one is a line, whose read is an ERROR response (20_memory.md R53). -/
def recOperand? (width : Width) : List Token → Option AsmLine
  | [.num i] => if recBase + i ≤ recLast then some (.ldRec width i) else none
  | [.num i, .comma, .name _] => if recBase + i ≤ recLast then some (.ldRec width i) else none
  | _ => none

/-- R89, R90: the line of a mnemonic and its operands. -/
def lineOf? (m : List Char) (ts : List Token) : Option AsmLine :=
  if m = "NOP".toList then (if ts = [] then some (.command .nop) else none)
  else if m = "CRC.INIT".toList then (if ts = [] then some (.command .crcInit) else none)
  else if m = "CRC.BYTE".toList then
    match ts with
    | [.num n] => (byteOperand? n).map fun d => .command (.crcByte d)
    | _ => none
  else if m = "CRC.STR".toList then
    match ts with
    | [.str s] => some (.crcBytes s)
    | _ => none
  else if m = "CRC.BYTES".toList then (byteList? ts).map .crcBytes
  else if m = "REC.BEGIN".toList then (if ts = [] then some (.command .recBegin) else none)
  else if m = "REC.PUT".toList then
    match ts with
    | [.name f, .comma, .num n] =>
      match fieldName? f, byteOperand? n with
      | some x, some d => some (.command (.recPut x.selector d))
      | _, _ => none
    | _ => none
  else if m = "REC.STR".toList then
    match ts with
    | [.name f, .comma, .str s] => (fieldName? f).map fun x => .recStr x s
    | _ => none
  else if m = "REC.DIRTY".toList then
    match ts with
    | [.num n] => (dirtyOperand? n).map fun v => .command (.recDirty v)
    | _ => none
  else if m = "REC.SEAL".toList then (if ts = [] then some (.command .recSeal) else none)
  else if m = "REC.BUILD".toList then
    match ts with
    | [.str c, .comma, .num n, .comma, .str b, .comma, .str d, .comma, .str t] =>
      (dirtyOperand? n).map fun v => .recBuild c v b d t
    | _ => none
  else if m = "FRM.OPEN".toList then (if ts = [] then some (.command .frmOpen) else none)
  else if m = "FRM.BYTE".toList then
    match ts with
    | [.num n] => (byteOperand? n).map fun d => .command (.frmByte d)
    | _ => none
  else if m = "FRM.CLOSE".toList then (if ts = [] then some (.command .frmClose) else none)
  else if m = "FRM.SEND".toList then (if ts = [] then some (.frmSend []) else (byteList? ts).map .frmSend)
  else if m = "FRM.TOKEN".toList then
    match ts with
    | [.num n] => (wordOperand? n).map .frmToken
    | _ => none
  else if m = "CLR.ERR".toList then (if ts = [] then some (.command .clrErr) else none)
  else if m = ".word".toList then
    match ts with
    | [.num n] => (wordOperand? n).map .word
    | _ => none
  else if m = "LD.STATUS".toList then (if hostRegister? ts then some .ldStatus else none)
  else if m = "LD.ACC".toList then (if hostRegister? ts then some .ldAcc else none)
  else if m = "LD.OUT".toList then (if hostRegister? ts then some .ldOut else none)
  else if m = "LD.META".toList then (if hostRegister? ts then some .ldMeta else none)
  else if m = "LD.REC8".toList then recOperand? .w8 ts
  else if m = "LD.REC16".toList then recOperand? .w16 ts
  else if m = "LD.REC32".toList then recOperand? .w32 ts
  else if m = "ST.META".toList then
    match ts with
    | [.num n] => (wordOperand? n).map .stMeta
    | _ => none
  else none

/-- R89: the command of a line of text. A blank line or a comment has none (DESIGN CHOICE, log entry 13: `some none`); `none` where
the text is no line. -/
def parseLine (text : List Char) : Option (Option AsmLine) :=
  match scan .between text with
  | none => none
  | some [] => some none
  | some (.name m :: ts) => (lineOf? m ts).map some
  | some _ => none

end Sys2Proof.Machine
end

