-- ==== Sys2Proof/Machine/Reader.lean ====
section
/-! DEFINITION. What stands outside the block and is checked against it: the source's record for given inputs (41_record.md R121 to R123, R131), the
reader of a record (R125) and the receiver of the wire (42_framer.md R166). No step of the machine uses them. -/

namespace Sys2Proof.Machine

/-- R121: the characters of `s` a string field of width `w` keeps: up to its first NUL, at most `w - 1`. -/
def storedChars (w : Nat) (s : List Byte) : List Byte := (s.takeWhile (· ≠ 0#8)).take (w - 1)

/-- R121: the stored form of `s` in a string field of width `w`, 0x00 up to the end of the field. -/
def storedForm (w : Nat) (s : List Byte) : List Byte :=
  storedChars w s ++ List.replicate (w - (storedChars w s).length) 0#8

/-- R122 for the source's inputs: the stored characters of the strings with the dirty byte after the commit. -/
def sourcePayload (c : List Byte) (v : BitVec 1) (b d t : List Byte) : List Byte :=
  storedChars 9 c ++ [dirtyByte v] ++ storedChars 32 b ++ storedChars 12 d ++ storedChars 9 t

/-- R131: the source's record for four strings and a dirty flag, in the layout of R120. -/
def sourceRecord (c : List Byte) (v : BitVec 1) (b d t : List Byte) : List Byte :=
  magic ++ storedForm 9 c ++ [dirtyByte v] ++ storedForm 32 b ++ storedForm 12 d ++ storedForm 9 t
    ++ bytesLE (crc32 (sourcePayload c v b d t))

/-- The 71 bytes `REC[0..70]`. -/
def Block.recordBytes (b : Block) : List Byte := b.record.readBytes 0 recordSize

/-- R125: the bytes of a string field's extent before its first 0x00. -/
def extentString (x : List Byte) (f : TextField) : List Byte :=
  ((x.drop f.offset).take f.width).takeWhile (· ≠ 0#8)

/-- R125: `P(X)`. -/
def readerPayload (x : List Byte) : List Byte :=
  extentString x .commit ++ [x.getD dirtyOffset 0#8] ++ extentString x .branch ++ extentString x .date ++ extentString x .time

/-- R125: the check a reader of a record makes: 71 bytes, the magic, and the CRC of `P(X)`. -/
def readerAccepts (x : List Byte) : Bool :=
  x.length == recordSize && x.take 4 == magic && wordLE ((x.drop crcOffset).take 4) == crc32 (readerPayload x)

/-- R166: the receiver with the body it is collecting, if a `$` has started one. A newline ends a frame; a `$` found mid-stream discards
what was collected before it (DEDUCED, log entry 12); bytes before any `$` are noise. -/
def receiveFrom : Option (List Byte) → List Byte → List (List Byte)
  | _, [] => []
  | none, c :: cs => if c = dollar then receiveFrom (some []) cs else receiveFrom none cs
  | some body, c :: cs =>
    if c = newline then body :: receiveFrom none cs
    else if c = dollar then receiveFrom (some []) cs
    else receiveFrom (some (body ++ [c])) cs

/-- R166: the frame bodies a receiver recovers from a byte stream. -/
def receive (stream : List Byte) : List (List Byte) := receiveFrom none stream

end Sys2Proof.Machine
end

