-- ==== Sys2Proof/Safety.lean ====
section
/-! DEFINITION. What a good state is (the invariants of 10_state.md R40) and the runs in whose terms statements are made. -/

namespace Sys2Proof.Machine

/-! ### Invariants -/

/-- R40 items 4 to 7, R22's ranges of `LEN_f`, and the canonical form of the record buffer. -/
structure RecordOk (b : Block) : Prop where
  /-- The cells are in canonical form. -/
  canonical : b.record.wf
  /-- Only `REC[0..70]` are ever written. -/
  bounded : ∀ c ∈ b.record, c.1 < recordSize
  /-- R22: `LEN_f` is at most the field's capacity. -/
  lengths : ∀ f, (b.text f).len ≤ f.capacity
  /-- Item 4. -/
  emptyRecord : b.rstate = .empty → (∀ i, b.record.read i = 0#8) ∧ ∀ f, b.text f = .cleared
  /-- Item 5, the magic. -/
  hasMagic : b.rstate ≠ .empty → b.record.readBytes 0 4 = magic
  /-- Item 5, the characters stored in a string field. -/
  stored : b.rstate ≠ .empty → ∀ f i, i < (b.text f).len → b.record.read (f.offset + i) ≠ 0#8
  /-- Item 5, the rest of a string field. -/
  padded : b.rstate ≠ .empty → ∀ f i, (b.text f).len ≤ i → i < f.width → b.record.read (f.offset + i) = 0#8
  /-- Item 5, the dirty byte. -/
  dirty : b.rstate ≠ .empty → b.record.read dirtyOffset = 0#8 ∨ b.record.read dirtyOffset = 1#8
  /-- Item 6. -/
  unsealed : b.rstate = .building → b.record.readBytes crcOffset 4 = [0#8, 0#8, 0#8, 0#8]
  /-- Item 7. -/
  sealedCrc : b.rstate = .sealed → b.record.readBytes crcOffset 4 = bytesLE (crc32 b.payload)

/-- R40 item 3. -/
structure ErrorOk (b : Block) : Prop where
  clear : b.err = false → b.ecode = 0#4
  latched : b.err = true → 1#4 ≤ b.ecode ∧ b.ecode ≤ 5#4

/-- R40 item 1 (its first half is in `GCNT`'s type), and R38: a buffer that holds no pending byte is 0x00. -/
structure GroupOk (b : Block) : Prop where
  closed : b.fopen = false → b.gcnt = 0
  noFirst : b.gcnt = 0 → b.gbuf0 = 0#8
  noSecond : b.gcnt ≠ 2 → b.gbuf1 = 0#8

/-- R40 item 2. -/
abbrev QueueOk (s : State) : Prop := s.blk.outq.length ≤ s.cfg.outqDepth

/-- R40 item 8. With `t` the bytes of the current frame the sink has taken already: if a frame is open, `t` and `OUTQ` together are the
frame so far, its `$` and the text of the complete groups `g` of its payload; if none is open, `OUTQ` is empty or `t` and `OUTQ`
together are the last closed frame. -/
def WireOk (s : State) : Prop :=
  (s.blk.fopen = true → ∃ t g, t <:+ s.tx ∧ g.length % 3 = 0 ∧ t ++ s.blk.outq = [dollar] ++ b64 g) ∧
  (s.blk.fopen = false → s.blk.outq = [] ∨ ∃ t p, t <:+ s.tx ∧ t ++ s.blk.outq = frame p)

/-- The word of the pending CMD write. -/
def Port.word? : Port → Option Word
  | .free => none
  | .held w => some w
  | .retry w => some w

/-- 20_memory.md R60: a pending write is that of a command that is executed when it is tried next, and one that is held is blocked. -/
def PortOk (s : State) : Prop :=
  ∀ w, s.port.word? = some w → ∃ i, decode w = .ok i ∧ executes i s.blk = true ∧
    (s.port = .held w → blocked i s.cfg.outqDepth s.blk = true)

/-! ### What a step is -/

/-- The next turn is reset's. -/
def resetsNext (s : State) : Bool := (nextTurn s.turns).1 = .reset

/-- The access the host makes in the next step, if it makes one. -/
def nextAccess (s : State) : Option Access :=
  match nextTurn s.turns, s.port with
  | (.host, _), .free => s.hostq.head?
  | _, _ => none

/-- The word of the CMD write an access is, if it is one. -/
def Access.command? (c : Config) : Access → Option Word
  | .write .w32 addr v => if windowOffset c addr = some cmdOffset then some v else none
  | _ => none

/-- The command word the next step tries: that of a write whose try is due, or of the host's next access. -/
def triedWord (s : State) : Option Word :=
  match (nextTurn s.turns).1, s.port with
  | .reset, _ => none
  | _, .retry w => some w
  | _, _ => (nextAccess s).bind (Access.command? s.cfg)

/-! ### Accesses -/

/-- 20_memory.md R56: the admitted reads. -/
abbrev AdmittedRead (width : Width) (off : Nat) : Prop :=
  (width = .w32 ∧ (off = 0x004 ∨ off = 0x008 ∨ off = 0x00C ∨ off = 0x010)) ∨
  (0x080 ≤ off ∧ off ≤ 0x0C7 ∧ off % width.bytes = 0)

/-- R56: the admitted writes. -/
abbrev AdmittedWrite (width : Width) (off : Nat) : Prop := width = .w32 ∧ (off = 0x000 ∨ off = 0x010)

/-- 60_exceptions.md R203: the machine after a rejection with the code `c` while no error is latched. -/
def State.rejected (s : State) (c : BitVec 4) : State := s.withBlock { s.blk with err := true, ecode := c }

/-- Two machines that differ in `META` and in what the host has read, and in nothing else. -/
structure SameButMeta (s s' : State) : Prop where
  block : s'.blk.setMeta 0#32 = s.blk.setMeta 0#32
  parameters : s'.cfg = s.cfg
  port : s'.port = s.port
  hostq : s'.hostq = s.hostq
  turns : s'.turns = s.turns
  taken : s'.tx = s.tx

/-! ### Runs of commands -/

/-- Commands performed one after another, as long as each one completes. -/
def runCommands : List Instr → State → Out
  | [], s => .next s
  | i :: is, s =>
    match exec i s with
    | .next t => runCommands is t
    | .fault r => .fault r
    | .refused r => .refused r

/-- A command of the framer. -/
def framerCommand : Instr → Bool
  | .nop => false
  | .crcInit => false
  | .crcByte _ => false
  | .recBegin => false
  | .recPut _ _ => false
  | .recDirty _ => false
  | .recSeal => false
  | .frmOpen => true
  | .frmByte _ => true
  | .frmClose => true
  | .clrErr => false

/-- What happens on the wire between resets: a command is performed, or the sink takes a byte. -/
inductive WireEvent where
  | perform (i : Instr)
  | take
  deriving DecidableEq, Repr

/-- A run without reset in which every command is performed, not held, and none is rejected (42_framer.md R161). -/
def runWire : List WireEvent → State → Option State
  | [], s => some s
  | .take :: es, s => runWire es (sinkTake s)
  | .perform i :: es, s =>
    match exec i s with
    | .next t => if t.port = .free ∧ t.blk.err = false then runWire es t else none
    | .fault _ => none
    | .refused _ => none

/-- The framer commands of a run, in order. -/
def framerCommands (es : List WireEvent) : List Instr :=
  es.filterMap fun e =>
    match e with
    | .perform i => if framerCommand i then some i else none
    | .take => none

/-- Every byte that has been emitted and not lost: those taken, then those queued. -/
def State.stream (s : State) : List Byte := s.tx ++ s.blk.outq

end Sys2Proof.Machine
end

