-- ==== Sys2Proof/Certificates/Slice0/Obligations.lean ====
section
/-! DEFINITION. The statements for the provers, each a rule of spec/ or drawn from several. A statement about every state holds whatever the open
parameters are: they are fields of the state. -/

open Sys2Proof Sys2Proof.Machine

/-! ### Encoding -/

/-- 30_encoding.md R81 to R85, R89: decoding the word of a command gives the command, every operand at every value. -/
def Obligations.EncodeThenDecodeIsIdentity : Prop := ∀ i : Instr, decode (encode i) = .ok i

/-- R80, R81, R85: a word that decodes is the word of its command, so each accepted word has one meaning. -/
def Obligations.DecodedWordIsItsEncoding : Prop := ∀ (w : Word) (i : Instr), decode w = .ok i → encode i = w

/-- R85: the format checks accept a word exactly when it matches a row's match and mask. -/
def Obligations.DecodeAcceptsExactlyTheTable : Prop :=
  ∀ w : Word, (∃ i, decode w = .ok i) ↔
    (w &&& 0xFFFFFFFF#32 = 0x00000000#32 ∨ w &&& 0xFFFFFFFF#32 = 0x01000000#32 ∨ w &&& 0xFFFFFF00#32 = 0x02000000#32 ∨
      w &&& 0xFFFFFFFF#32 = 0x10000000#32 ∨ w &&& 0xFFF8FF00#32 = 0x11000000#32 ∨ w &&& 0xFFFFFFFE#32 = 0x12000000#32 ∨
      w &&& 0xFFFFFFFF#32 = 0x13000000#32 ∨ w &&& 0xFFFFFFFF#32 = 0x20000000#32 ∨ w &&& 0xFFFFFF00#32 = 0x21000000#32 ∨
      w &&& 0xFFFFFFFF#32 = 0x22000000#32 ∨ w &&& 0xFFFFFFFF#32 = 0x7F000000#32)

/-- R86: every value of OP in the four ranges is rejected with ILLEGAL_OP, whatever the other bits. -/
def Obligations.IllegalOpcodesAreRejected : Prop :=
  ∀ (w : Word) (s : State),
    ((0x03#8 ≤ opField w ∧ opField w ≤ 0x0F#8) ∨ (0x14#8 ≤ opField w ∧ opField w ≤ 0x1F#8) ∨
      (0x23#8 ≤ opField w ∧ opField w ≤ 0x7E#8) ∨ 0x80#8 ≤ opField w) →
    decode w = .error .illegalOp ∧ (s.blk.err = false → perform w s = .next (s.rejected 1#4))

/-- R85, R89: words written out from the encodings decode to the commands they stand for. -/
def Obligations.SpecWordsDecode : Prop :=
  decode 0x00000000#32 = .ok .nop ∧ decode 0x01000000#32 = .ok .crcInit ∧ decode 0x02000031#32 = .ok (.crcByte 0x31#8) ∧
  decode 0x10000000#32 = .ok .recBegin ∧ decode 0x11010078#32 = .ok (.recPut 1#3 0x78#8) ∧
  decode 0x11050000#32 = .ok (.recPut 5#3 0#8) ∧ decode 0x12000001#32 = .ok (.recDirty 1#1) ∧
  decode 0x13000000#32 = .ok .recSeal ∧ decode 0x20000000#32 = .ok .frmOpen ∧
  decode 0x21000041#32 = .ok (.frmByte 0x41#8) ∧ decode 0x22000000#32 = .ok .frmClose ∧ decode 0x7F000000#32 = .ok .clrErr

/-! ### Rejection, discard, and the end of an error -/

/-- 60_exceptions.md R202, R203: while no error is latched, the first failing check decides the code: ILLEGAL_OP, RSVD, BAD_FIELD, then
the state check; the rejection latches it and changes nothing else. A command that passes every check is executed or held, and neither
latches an error. While an error is latched, any OP but 0x00 and 0x7F is discarded and no check is made. -/
def Obligations.PerformReportsTheFirstFailingCheck : Prop :=
  ∀ (w : Word) (s : State),
    (s.blk.err = true → opField w ≠ 0x00#8 → opField w ≠ 0x7F#8 → perform w s = .next s) ∧
    (s.blk.err = false →
    ((∀ o : Opcode, opField w ≠ o.bits) → perform w s = .next (s.rejected 1#4)) ∧
    (∀ o : Opcode, opField w = o.bits →
      (w &&& o.mbz ≠ 0#32 → perform w s = .next (s.rejected 2#4)) ∧
      (w &&& o.mbz = 0#32 →
        (o = .recPut → 3 < (selectorField w).toNat → perform w s = .next (s.rejected 3#4)) ∧
        ((o = .recPut → (selectorField w).toNat ≤ 3) → (o = .recPut ∨ o = .recDirty ∨ o = .recSeal) →
          s.blk.rstate ≠ .building → perform w s = .next (s.rejected 4#4)) ∧
        (o = .frmOpen → s.blk.fopen = true → perform w s = .next (s.rejected 5#4)) ∧
        (o = .frmByte ∨ o = .frmClose → s.blk.fopen = false → perform w s = .next (s.rejected 5#4)) ∧
        ((o = .recPut → (selectorField w).toNat ≤ 3) → (o = .recPut ∨ o = .recDirty ∨ o = .recSeal → s.blk.rstate = .building) →
          (o = .frmOpen → s.blk.fopen = false) → (o = .frmByte ∨ o = .frmClose → s.blk.fopen = true) →
          ∃ i, decode w = .ok i ∧ i.opcode = o ∧
            ((perform w s = .next { s with blk := commandEffect i s.blk } ∧ (commandEffect i s.blk).err = false ∧
                (commandEffect i s.blk).ecode = (if o = .clrErr then 0#4 else s.blk.ecode)) ∨
              perform w s = .next { s with port := .held w })))))

/-- R204, R203, R208: while an error is latched every command whose OP is not 0x00 or 0x7F is discarded: its write completes with OKAY, it
is never held, and nothing else changes. NOP and CLR_ERR are decoded and checked as usual: NOP does nothing, CLR_ERR clears the latch, and a
word of either with a reserved bit set is rejected, which leaves ECODE at the first error. -/
def Obligations.LatchedErrorDiscardsCommands : Prop :=
  ∀ (w : Word) (s : State), s.blk.err = true →
    (opField w ≠ 0x00#8 → opField w ≠ 0x7F#8 →
      perform w s = .next s ∧
      tryCommand w s = .next { s with port := .free, responses := s.responses ++ [⟨.okay, none⟩] }) ∧
    ((opField w = 0x00#8 ∨ opField w = 0x7F#8) → w &&& 0x00FFFFFF#32 ≠ 0#32 → perform w s = .next s) ∧
    (w = 0x00000000#32 → perform w s = .next s) ∧
    (w = 0x7F000000#32 → perform w s = .next { s with blk := { s.blk with err := false, ecode := 0#4 } })

/-! ### Results of the commands, each with its frame -/

/-- 43_control.md R180: NOP is the word 0 and changes nothing in any state, and no other word does so; with a bit of [23:0] set it is rejected
with RSVD, which changes nothing while an error is latched; no access, a NOP's among them, starts while a write is pending. -/
def Obligations.NopChangesNothing : Prop :=
  (∀ s : State, encode .nop = 0x00000000#32 ∧ exec .nop s = .next s ∧ perform 0x00000000#32 s = .next s ∧
    ∀ w : Word, opField w = 0x00#8 → w &&& 0x00FFFFFF#32 ≠ 0#32 →
      (s.blk.err = false → perform w s = .next (s.rejected 2#4)) ∧ (s.blk.err = true → perform w s = .next s)) ∧
  (∀ w : Word, (∀ s : State, perform w s = .next s) → w = 0x00000000#32) ∧
  ∀ (s : State) (w : Word), s.port.word? = some w → nextAccess s = none

/-- R181: CLR_ERR is the word 0x7F000000 and clears ERR and ECODE in any state, changing nothing else, and nothing at all where no error is
latched; with a bit of [23:0] set it is rejected with RSVD, which changes nothing while an error is latched. -/
def Obligations.ClearErrorClearsTheLatchAlone : Prop :=
  ∀ s : State, encode .clrErr = 0x7F000000#32 ∧
    exec .clrErr s = .next { s with blk := { s.blk with err := false, ecode := 0#4 } } ∧
    perform 0x7F000000#32 s = exec .clrErr s ∧
    (s.blk.err = false → s.blk.ecode = 0#4 → exec .clrErr s = .next s) ∧
    ∀ w : Word, opField w = 0x7F#8 → w &&& 0x00FFFFFF#32 ≠ 0#32 →
      (s.blk.err = false → perform w s = .next (s.rejected 2#4)) ∧ (s.blk.err = true → perform w s = .next s)

/-- 40_crc.md R103: CRC_INIT restarts the accumulator and changes nothing else; CRC_OUT then reads 0. -/
def Obligations.CrcInitRestartsTheAccumulator : Prop :=
  ∀ s : State, s.blk.err = false →
    ∃ t, exec .crcInit s = .next t ∧ t = { s with blk := { s.blk with acc := 0xFFFFFFFF#32 } } ∧ t.blk.crcOut = 0#32

/-- R101, R104: CRC_BYTE feeds one byte, eight times a right shift with the constant where the low bit was 1, and changes nothing else. -/
def Obligations.CrcByteFeedsOneByte : Prop :=
  ∀ (d : Byte) (s : State), s.blk.err = false →
    let bit : Word → Word := fun a => if a.getLsbD 0 then (a >>> 1) ^^^ 0xEDB88320#32 else a >>> 1
    exec (.crcByte d) s = .next { s with blk := { s.blk with
      acc := bit (bit (bit (bit (bit (bit (bit (bit (s.blk.acc ^^^ d.setWidth 32)))))))) } }

/-- 41_record.md R126: REC_BEGIN leaves the magic, zeros and cleared string fields, BUILDING, and everything else as it was. -/
def Obligations.RecBeginStartsAnEmptyRecord : Prop :=
  ∀ s : State, s.blk.err = false →
    ∃ t, exec .recBegin s = .next t ∧
      t.blk.record.read 0 = 0x4D#8 ∧ t.blk.record.read 1 = 0x45#8 ∧ t.blk.record.read 2 = 0x54#8 ∧
      t.blk.record.read 3 = 0x41#8 ∧ (∀ i, 4 ≤ i → t.blk.record.read i = 0#8) ∧ t.blk.record.wf ∧
      t = { s with blk := { s.blk with
        record := t.blk.record, rstate := .building, commit := ⟨0, false⟩, branch := ⟨0, false⟩, date := ⟨0, false⟩,
        time := ⟨0, false⟩ } }

/-- R127: REC_PUT to a field whose string has ended or that is full drops the byte; a NUL ends the string; any other byte is stored
at `off_f + LEN_f`, every other byte of the record stays, and only that field's length changes. -/
def Obligations.RecPutAppendsEndsOrDrops : Prop :=
  ∀ (x : TextField) (d : Byte) (s : State), s.blk.err = false → s.blk.rstate = .building → s.blk.record.wf →
    ((s.blk.text x).term = true ∨ (s.blk.text x).len = x.capacity → exec (.recPut x.selector d) s = .next s) ∧
    ((s.blk.text x).term = false → (s.blk.text x).len ≠ x.capacity → d = 0#8 →
      exec (.recPut x.selector d) s = .next { s with blk := s.blk.setText x ⟨(s.blk.text x).len, true⟩ }) ∧
    ((s.blk.text x).term = false → (s.blk.text x).len ≠ x.capacity → d ≠ 0#8 →
      ∃ t, exec (.recPut x.selector d) s = .next t ∧
        t.blk.record.read (x.offset + (s.blk.text x).len) = d ∧
        (∀ i, i ≠ x.offset + (s.blk.text x).len → t.blk.record.read i = s.blk.record.read i) ∧ t.blk.record.wf ∧
        t = { s with blk := { s.blk.setText x ⟨(s.blk.text x).len + 1, false⟩ with record := t.blk.record } })

/-- R128: REC_DIRTY stores its bit in the dirty byte and changes nothing else. -/
def Obligations.RecDirtyStoresTheFlag : Prop :=
  ∀ (v : BitVec 1) (s : State), s.blk.err = false → s.blk.rstate = .building → s.blk.record.wf →
    ∃ t, exec (.recDirty v) s = .next t ∧ t.blk.record.read 13 = v.setWidth 8 ∧
      (∀ i, i ≠ 13 → t.blk.record.read i = s.blk.record.read i) ∧ t.blk.record.wf ∧
      t = { s with blk := { s.blk with record := t.blk.record } }

/-- R123, R129: REC_SEAL leaves the accumulator over the payload in ACC, its final value least significant byte first in
`REC[67..70]`, SEALED, and everything else as it was. -/
def Obligations.RecSealStoresTheCrc : Prop :=
  ∀ s : State, s.blk.err = false → s.blk.rstate = .building → s.blk.record.wf →
    ∃ t, exec .recSeal s = .next t ∧ t.blk.acc = crcAcc 0xFFFFFFFF#32 s.blk.payload ∧
      t.blk.crcOut = crc32 s.blk.payload ∧
      t.blk.record.read 67 = (crc32 s.blk.payload).extractLsb' 0 8 ∧
      t.blk.record.read 68 = (crc32 s.blk.payload).extractLsb' 8 8 ∧
      t.blk.record.read 69 = (crc32 s.blk.payload).extractLsb' 16 8 ∧
      t.blk.record.read 70 = (crc32 s.blk.payload).extractLsb' 24 8 ∧
      (∀ i, i < 67 ∨ 70 < i → t.blk.record.read i = s.blk.record.read i) ∧ t.blk.record.wf ∧
      t = { s with blk := { s.blk with acc := t.blk.acc, record := t.blk.record, rstate := .sealed } }

/-- 42_framer.md R155: FRM_OPEN on an empty queue emits `$` and opens a frame; on a queue that holds bytes it is held. -/
def Obligations.FrmOpenEmitsTheDollar : Prop :=
  ∀ s : State, s.blk.err = false → s.blk.fopen = false →
    (s.blk.outq = [] →
      exec .frmOpen s = .next { s with blk := { s.blk with outq := [0x24#8], fopen := true, gcnt := 0 } }) ∧
    (s.blk.outq ≠ [] → exec .frmOpen s = .next { s with port := .held 0x20000000#32 })

/-- R156: FRM_BYTE keeps the first and the second byte of a group, and with the third emits the group's four characters if
four bytes of the queue are free; otherwise it is held. -/
def Obligations.FrmByteCollectsGroups : Prop :=
  ∀ (d : Byte) (s : State), s.blk.err = false → s.blk.fopen = true →
    (s.blk.gcnt = 0 → exec (.frmByte d) s = .next { s with blk := { s.blk with gbuf0 := d, gcnt := 1 } }) ∧
    (s.blk.gcnt = 1 → exec (.frmByte d) s = .next { s with blk := { s.blk with gbuf1 := d, gcnt := 2 } }) ∧
    (s.blk.gcnt = 2 → s.blk.outq.length + 4 ≤ s.cfg.outqDepth →
      exec (.frmByte d) s = .next { s with blk := { s.blk with
        outq := s.blk.outq ++ enc3 s.blk.gbuf0 s.blk.gbuf1 d, gbuf0 := 0#8, gbuf1 := 0#8, gcnt := 0 } }) ∧
    (s.blk.gcnt = 2 → s.cfg.outqDepth < s.blk.outq.length + 4 →
      exec (.frmByte d) s = .next { s with port := .held (0x21000000#32 ||| d.setWidth 32) })

/-- R157: FRM_CLOSE emits the padded rest of the payload and a newline and closes the frame if the queue has room for them;
otherwise it is held. -/
def Obligations.FrmCloseEndsTheFrame : Prop :=
  ∀ s : State, s.blk.err = false → s.blk.fopen = true →
    (∀ tail : List Byte, (s.blk.gcnt = 0 ∧ tail = []) ∨ (s.blk.gcnt = 1 ∧ tail = enc1 s.blk.gbuf0) ∨
        (s.blk.gcnt = 2 ∧ tail = enc2 s.blk.gbuf0 s.blk.gbuf1) →
      (s.blk.outq.length + tail.length + 1 ≤ s.cfg.outqDepth →
        exec .frmClose s = .next { s with blk := { s.blk with
          outq := s.blk.outq ++ tail ++ [0x0A#8], gbuf0 := 0#8, gbuf1 := 0#8, gcnt := 0, fopen := false } }) ∧
      (s.cfg.outqDepth < s.blk.outq.length + tail.length + 1 →
        exec .frmClose s = .next { s with port := .held 0x22000000#32 }))

/-- 20_memory.md R60, 42_framer.md R159: in a state whose queue is within its capacity, a command is held exactly when it is blocked:
it passes its checks and, for FRM_OPEN, the queue is not empty, for any other, its bytes do not fit. -/
def Obligations.HeldExactlyWhenBlocked : Prop :=
  ∀ (i : Instr) (s : State), s.port = .free → QueueOk s →
    (exec i s = .next { s with port := .held (encode i) } ↔ blocked i s.cfg.outqDepth s.blk = true)

/-- 42_framer.md R159: a command that is executed and not blocked appends exactly `k` bytes to the queue; every other command that
completes leaves the queue alone. -/
def Obligations.EmittedBytesMatchTheTable : Prop :=
  ∀ (i : Instr) (s t : State), s.port = .free → exec i s = .next t → t.port = .free →
    ∃ e : List Byte, t.blk.outq = s.blk.outq ++ e ∧ e.length = if executes i s.blk then emitCount i s.blk else 0

/-! ### Who writes what -/

/-- 10_state.md R33: a step that changes ACC is reset or performs CRC_INIT, CRC_BYTE or REC_SEAL. -/
def Obligations.AccWrittenOnlyByCrcCommands : Prop :=
  ∀ s t : State, step s = .next t → t.blk.acc ≠ s.blk.acc →
    resetsNext s = true ∨ ∃ w i, triedWord s = some w ∧ decode w = .ok i ∧
      (i = .crcInit ∨ (∃ d, i = .crcByte d) ∨ i = .recSeal)

/-- R36, R37: a step that changes the record buffer or a string field's length or end is reset or performs a record command. -/
def Obligations.RecordWrittenOnlyByRecordCommands : Prop :=
  ∀ s t : State, step s = .next t → (t.blk.record ≠ s.blk.record ∨ ∃ f, t.blk.text f ≠ s.blk.text f) →
    resetsNext s = true ∨ ∃ w i, triedWord s = some w ∧ decode w = .ok i ∧
      (i = .recBegin ∨ (∃ f d, i = .recPut f d) ∨ (∃ v, i = .recDirty v) ∨ i = .recSeal)

/-- R28, 41_record.md R124: the record's state moves only by REC_BEGIN to BUILDING, by REC_SEAL from BUILDING to SEALED, and by reset
to EMPTY. -/
def Obligations.RecordStateMovesByItsLifecycle : Prop :=
  ∀ s t : State, step s = .next t → t.blk.rstate ≠ s.blk.rstate →
    (resetsNext s = true ∧ t.blk.rstate = .empty) ∨
    (∃ w, triedWord s = some w ∧ decode w = .ok .recBegin ∧ t.blk.rstate = .building) ∨
    (∃ w, triedWord s = some w ∧ decode w = .ok .recSeal ∧ s.blk.rstate = .building ∧ t.blk.rstate = .sealed)

/-- R124: in SEALED, no step that does not reset and does not perform REC_BEGIN changes the record or its state. -/
def Obligations.SealedRecordIsImmutable : Prop :=
  ∀ s t : State, step s = .next t → s.blk.rstate = .sealed → resetsNext s = false →
    (∀ w, triedWord s = some w → decode w ≠ .ok .recBegin) →
    t.blk.rstate = .sealed ∧ t.blk.record = s.blk.record

/-- 10_state.md R26, R27: FOPEN is set by FRM_OPEN and cleared by FRM_CLOSE or reset; GCNT is written by those and FRM_BYTE. -/
def Obligations.FrameStateWrittenOnlyByFramerCommands : Prop :=
  ∀ s t : State, step s = .next t →
    (s.blk.fopen = false → t.blk.fopen = true → ∃ w, triedWord s = some w ∧ decode w = .ok .frmOpen) ∧
    (s.blk.fopen = true → t.blk.fopen = false →
      resetsNext s = true ∨ ∃ w, triedWord s = some w ∧ decode w = .ok .frmClose) ∧
    (t.blk.gcnt ≠ s.blk.gcnt → resetsNext s = true ∨ ∃ w i, triedWord s = some w ∧ decode w = .ok i ∧
      ((i = .frmOpen ∧ t.blk.gcnt = 0) ∨ (∃ d, i = .frmByte d) ∨ (i = .frmClose ∧ t.blk.gcnt = 0)))

/-- R29, R30: ERR is set only by a rejected command, whose code ECODE then takes; both are cleared only by CLR_ERR and reset; ECODE changes in no
other way. -/
def Obligations.ErrorLatchIsSticky : Prop :=
  ∀ s t : State, step s = .next t →
    (s.blk.err = false → t.blk.err = true → ∃ w, triedWord s = some w ∧
      ((∃ e, decode w = .error e ∧ t.blk.ecode = (errorOfDecode e).code) ∨
        ∃ i e, decode w = .ok i ∧ commandCheck i s.blk = some e ∧ t.blk.ecode = e.code)) ∧
    (s.blk.err = true → t.blk.err = false →
      resetsNext s = true ∨ ∃ w, triedWord s = some w ∧ decode w = .ok .clrErr) ∧
    (s.blk.err = true → t.blk.err = true → t.blk.ecode = s.blk.ecode) ∧
    (s.blk.err = false → t.blk.err = false → t.blk.ecode = s.blk.ecode ∨ t.blk.ecode = 0#4)

/-- R35, 20_memory.md R61: a step that changes META is reset or the host's 32-bit write of FRM_META. -/
def Obligations.MetaWrittenOnlyByItsRegister : Prop :=
  ∀ s t : State, step s = .next t → t.blk.metaWord ≠ s.blk.metaWord →
    resetsNext s = true ∨ ∃ addr v, nextAccess s = some (.write .w32 addr v) ∧
      windowOffset s.cfg addr = some 0x010 ∧ t.blk.metaWord = v

/-- 10_state.md R31, R41: in a step that is not reset, either the sink takes the head of the queue, or the queue keeps its bytes and a
performed command may append to them; TX changes only by the take. -/
def Obligations.QueueGrowsByCommandsAndShrinksByTakes : Prop :=
  ∀ s t : State, step s = .next t → resetsNext s = false →
    (∃ b q, s.blk.outq = b :: q ∧ t.blk.outq = q ∧ t.tx = s.tx ++ [b]) ∨
    (t.tx = s.tx ∧ ∃ e, t.blk.outq = s.blk.outq ++ e ∧ (e ≠ [] → ∃ w i, triedWord s = some w ∧ decode w = .ok i ∧
      framerCommand i = true))

/-! ### The bus -/

/-- 20_memory.md R57: an access that is not admitted gets the response ERROR, a read with the value 0, and changes no state; an
admitted read gets OKAY with the value `readValue` gives (its values: ReadsReturnTheRegisters) and changes no state; an admitted write gets OKAY
when it is performed. -/
def Obligations.ErrorResponsesChangeNothing : Prop :=
  ∀ (s : State) (width : Width) (addr off : Nat) (v : Word), windowOffset s.cfg addr = some off →
    (¬ AdmittedRead width off → hostAccess (.read width addr) s = .next (s.respond ⟨.error, some 0#32⟩)) ∧
    (AdmittedRead width off → ∃ x, s.blk.readValue width off = some x ∧
      hostAccess (.read width addr) s = .next (s.respond ⟨.okay, some x⟩)) ∧
    (¬ AdmittedWrite width off → hostAccess (.write width addr v) s = .next (s.respond ⟨.error, none⟩)) ∧
    (AdmittedWrite width off → ∃ t, hostAccess (.write width addr v) s = .next t ∧
      (t.port = .free ∨ off = 0x010 → t.responses = s.responses ++ [⟨.okay, none⟩]))

/-- R52, R54, R56, 10_state.md R23: the values of the admitted reads. -/
def Obligations.ReadsReturnTheRegisters : Prop :=
  ∀ (b : Block) (width : Width) (off : Nat),
    b.readValue .w32 0x004 = some b.status ∧ b.readValue .w32 0x008 = some b.acc ∧
    b.readValue .w32 0x00C = some (b.acc ^^^ 0xFFFFFFFF#32) ∧ b.readValue .w32 0x010 = some b.metaWord ∧
    (0x080 ≤ off → off ≤ 0x0C7 → off % width.bytes = 0 →
      ∃ x, b.readValue width off = some x ∧ ∀ j, j < 4 → x.extractLsb' (8 * j) 8 =
        if j < width.bytes ∧ off + j ≠ 0x0C7 then b.record.read (off + j - 0x080) else 0#8)

/-- 10_state.md R25, R32: every field of STATUS and its reserved bits, in every state; OQCNT while the queue is within its
capacity. -/
def Obligations.StatusShowsEveryField : Prop :=
  ∀ b : Block,
    b.status.extractLsb' 0 1 = (if b.fopen then 1#1 else 0#1) ∧
    (b.status.extractLsb' 1 2).toNat = b.gcnt.val ∧
    b.status.extractLsb' 3 1 = 0#1 ∧
    b.status.extractLsb' 4 2 = (match b.rstate with | .empty => 0#2 | .building => 1#2 | .sealed => 2#2) ∧
    b.status.extractLsb' 6 2 = 0#2 ∧
    b.status.extractLsb' 8 1 = (if b.err then 1#1 else 0#1) ∧
    b.status.extractLsb' 9 3 = 0#3 ∧
    b.status.extractLsb' 12 4 = b.ecode ∧
    (b.outq.length ≤ 255 → (b.status.extractLsb' 16 8).toNat = b.outq.length) ∧
    b.status.extractLsb' 24 8 = 0#8

/-- 20_memory.md R61, 10_state.md R35: the host's 32-bit write of FRM_META stores all 32 bits and changes nothing else, and reads back; a
narrower write of it is an ERROR response. -/
def Obligations.MetaReadsBackAsWritten : Prop :=
  ∀ (s : State) (v : Word),
    ∃ t, hostAccess (.write .w32 (s.cfg.baseAddr + 0x010) v) s = .next t ∧
      t = { s with blk := { s.blk with metaWord := v }, responses := s.responses ++ [⟨.okay, none⟩] } ∧
      t.blk.readValue .w32 0x010 = some v ∧
      ∀ width, width ≠ .w32 →
        hostAccess (.write width (s.cfg.baseAddr + 0x010) v) s = .next (s.respond ⟨.error, none⟩)

/-- 20_memory.md R59, 60_exceptions.md R201: a CMD write that is not held gets OKAY, whether its command was executed, rejected or
discarded. -/
def Obligations.CompletedCommandWritesAreOkay : Prop :=
  ∀ (s : State) (w : Word),
    ∃ t u, perform w { s with port := .free } = .next u ∧ hostAccess (cmdWrite s.cfg w) s = .next t ∧
      (u.port = .free → t = { u with responses := s.responses ++ [⟨.okay, none⟩] }) ∧
      (u.port ≠ .free → t = u ∧ u.port = .held w ∧ u.blk = s.blk ∧ u.responses = s.responses)

/-! ### The agents' steps -/

/-- 70_reset_and_hazards.md R231: the values after reset, and what the registers then read, whatever the parameters. -/
def Obligations.ResetLeavesEveryElementAtItsValue : Prop :=
  ∀ c : Config,
    let b := (State.resetWith c).blk
    b.acc = 0xFFFFFFFF#32 ∧ (∀ i, b.record.read i = 0#8) ∧ b.rstate = .empty ∧ (∀ f, b.text f = ⟨0, false⟩) ∧
    b.metaWord = 0#32 ∧ b.fopen = false ∧ b.gcnt = 0 ∧ b.gbuf0 = 0#8 ∧ b.gbuf1 = 0#8 ∧ b.outq = [] ∧ b.err = false ∧
    b.ecode = 0#4 ∧ b.readValue .w32 0x004 = some 0#32 ∧ b.readValue .w32 0x008 = some 0xFFFFFFFF#32 ∧
    b.readValue .w32 0x00C = some 0#32 ∧ b.readValue .w32 0x010 = some 0#32 ∧
    ∀ off, 0x080 ≤ off → off ≤ 0x0C7 → b.readValue .w8 off = some 0#32

/-- R230, R232, R233, 10_state.md R41: a reset step gives the block its reset values in any state, ends a held write without performing it,
and keeps TX; the parameters, the host's further accesses and the responses stay, and the abandoned write gets no response: the model's choice,
log entries 6 and 15. -/
def Obligations.ResetStepAbandonsAndKeepsTheWire : Prop :=
  ∀ (s : State) (ts : List Turn), s.turns = .reset :: ts →
    step s = .next { cfg := s.cfg, blk := (State.resetWith s.cfg).blk, port := .free, hostq := s.hostq, turns := ts, tx := s.tx,
                     responses := s.responses }

/-- 42_framer.md R160: on its turn, no write being due, the sink takes the byte at the head of the queue and appends it to TX; a held
write's try is then due (20_memory.md R60); nothing else changes. With an empty queue the turn passes: the model's choice, log entry 4. -/
def Obligations.SinkTakesTheHead : Prop :=
  ∀ (s : State) (ts : List Turn), s.turns = .sink :: ts → (∀ w, s.port ≠ .retry w) →
    (s.blk.outq = [] → step s = .next { s with turns := ts }) ∧
    (∀ b q, s.blk.outq = b :: q → step s = .next { s with
      turns := ts, blk := { s.blk with outq := q }, tx := s.tx ++ [b],
      port := match s.port with | .free => .free | .held w => .retry w | .retry w => .retry w })

/-- 20_memory.md R60, 70_reset_and_hazards.md R238: while a write is held the host's turn starts no access and changes nothing; once the sink
has taken a byte, the same word is tried before any step but reset. That the host's turn passes while a write is held, and that the due try
takes a host's turn and leaves a sink's, are the model's reading, log entries 4 and 5. -/
def Obligations.HeldWriteBlocksThePort : Prop :=
  ∀ (s : State) (w : Word), resetsNext s = false →
    (s.port = .held w → (nextTurn s.turns).1 = .host → step s = .next { s with turns := (nextTurn s.turns).2 }) ∧
    (s.port = .retry w → (nextTurn s.turns).1 = .sink → step s = tryCommand w s) ∧
    (s.port = .retry w → (nextTurn s.turns).1 = .host → step s = tryCommand w { s with turns := (nextTurn s.turns).2 })

/-- 20_memory.md R60: a write whose try is due (log entry 5) is performed once the queue is empty, since no command needs more than five
bytes. -/
def Obligations.PendingWriteCompletesOnAnEmptyQueue : Prop :=
  ∀ (s : State) (w : Word), s.cfg.Legal → s.port = .retry w → s.blk.outq = [] → resetsNext s = false →
    ∃ t, step s = .next t ∧ t.port = .free ∧ t.responses = s.responses ++ [⟨.okay, none⟩] ∧
      ∃ u, perform w { s with port := .free } = .next u ∧ t.blk = u.blk

/-- R60 with the sink progress of 92_eei_decisions.md D14: if the sink has turns enough to empty the queue, then after some number `m` of takes, at
most one for each byte queued, a held write's command has been executed, its effect that on the block without the `m` bytes taken, and OKAY
answered. A take and a try are two steps of the model (log entry 5). -/
def Obligations.HeldWriteCompletesUnderSinkProgress : Prop :=
  ∀ (s : State) (w : Word) (n : Nat), s.cfg.Legal → PortOk s → s.port = .held w →
    s.turns = List.replicate n .sink → s.blk.outq.length ≤ n →
    ∃ i m, decode w = .ok i ∧ m ≤ s.blk.outq.length ∧
      Host.Core.run Sys2Proof.core (2 * m) s = .next { s with
        port := .free
        blk := commandEffect i { s.blk with outq := s.blk.outq.drop m }
        turns := s.turns.drop m
        tx := s.tx ++ s.blk.outq.take m
        responses := s.responses ++ [⟨.okay, none⟩] }

/-- 70_reset_and_hazards.md R234, 00_scope.md R11: with no access, no turn listed and no try due, nothing changes. That a step with no turn
listed is the host's is the model's choice, log entry 2. -/
def Obligations.IdleChangesNothing : Prop :=
  ∀ s : State, s.hostq = [] → s.turns = [] → (∀ w, s.port ≠ .retry w) → step s = .next s

/-- 30_encoding.md R91, 20_memory.md R59, R62: when the host has the turn, the port is free and an access is listed, the step makes that access at
the state with it taken off the host's list. When it is the CMD write of a word that decodes to a command, the step is that command's
meaning there, and then the response OKAY if the command was not held. -/
def Obligations.StepRunsTheDecodedCommand : Prop :=
  (∀ (s : State) (a : Access), s.port = .free → nextAccess s = some a →
    step s = hostAccess a { s with hostq := s.hostq.tail, turns := (nextTurn s.turns).2 }) ∧
  ∀ (s : State) (w : Word) (i : Instr), s.port = .free → nextAccess s = some (cmdWrite s.cfg w) → decode w = .ok i →
    ∃ t, exec i { s with hostq := s.hostq.tail, turns := (nextTurn s.turns).2 } = .next t ∧
      step s = .next (match t.port with
        | .free => { t with responses := t.responses ++ [⟨.okay, none⟩] }
        | .held _ => t
        | .retry _ => t)

/-- 60_exceptions.md R200, 20_memory.md R51: no step is refused, and a step faults only when the host's next access lies outside the block's
window: the model's choice, log entry 7. -/
def Obligations.StepStopsOnlyOutsideTheWindow : Prop :=
  ∀ s : State, (∀ r, step s ≠ .refused r) ∧
    ((∃ r, step s = .fault r) ↔ ∃ a, nextAccess s = some a ∧
      match a with
      | .read _ addr => addr < s.cfg.baseAddr ∨ s.cfg.baseAddr + 0xFF < addr
      | .write _ addr _ => addr < s.cfg.baseAddr ∨ s.cfg.baseAddr + 0xFF < addr)

/-! ### Invariants -/

/-- 10_state.md R40: the invariants hold at reset, whatever the parameters. -/
def Obligations.InvariantsHoldAtReset : Prop :=
  ∀ c : Config, RecordOk (State.resetWith c).blk ∧ ErrorOk (State.resetWith c).blk ∧ GroupOk (State.resetWith c).blk ∧
    QueueOk (State.resetWith c) ∧ WireOk (State.resetWith c) ∧ PortOk (State.resetWith c)

/-- R40 items 4 to 7, R22: every step keeps the record's invariant. -/
def Obligations.StepKeepsTheRecord : Prop := ∀ s t : State, RecordOk s.blk → step s = .next t → RecordOk t.blk

/-- R40 item 3: every step keeps ERR and ECODE consistent. -/
def Obligations.StepKeepsTheErrorLatch : Prop := ∀ s t : State, ErrorOk s.blk → step s = .next t → ErrorOk t.blk

/-- R40 items 1 and 2, R38: every step keeps the pending group consistent and the queue within its capacity, and the parameters as they are. -/
def Obligations.StepKeepsTheQueueAndGroup : Prop :=
  ∀ s t : State, s.cfg.Legal → GroupOk s.blk → QueueOk s → step s = .next t → t.cfg = s.cfg ∧ GroupOk t.blk ∧ QueueOk t

/-- R40 item 8: every step keeps the queue a contiguous piece of at most one frame. -/
def Obligations.StepKeepsOneFrameOnTheWire : Prop := ∀ s t : State, WireOk s → step s = .next t → WireOk t

/-- 20_memory.md R60: every step keeps a pending write one that will be executed, and a held one blocked. How a pending write stands in the
state is the model's, log entry 16. -/
def Obligations.StepKeepsThePendingWrite : Prop :=
  ∀ s t : State, PortOk s → step s = .next t → PortOk t

/-! ### Laws -/

/-- 40_crc.md R105: CRC_INIT and then CRC_BYTE for every byte of every field leaves the CRC of the concatenation. -/
def Obligations.CrcOverConcatenatedFields : Prop :=
  ∀ (fields : List (List Byte)) (s : State), s.blk.err = false →
    ∃ t, runCommands (.crcInit :: fields.flatMap crcBytes) s = .next t ∧
      t = { s with blk := { s.blk with acc := crcAcc 0xFFFFFFFF#32 fields.flatten } } ∧
      t.blk.crcOut = crc32 fields.flatten

/-- R106: the five algebraic facts. -/
def Obligations.CrcAlgebra : Prop :=
  (∀ (a : Word) (s t : List Byte), crcAcc a (s ++ t) = crcAcc (crcAcc a s) t) ∧
  (crc32 [] = 0x00000000#32 ∧
    ∀ s : State, s.blk.err = false → ∃ t, exec .crcInit s = .next t ∧ t.blk.readValue .w32 0x00C = some 0x00000000#32) ∧
  (crcStep 0x00000000#32 0x00#8 = 0x00000000#32 ∧ crcStep 0x00000000#32 0x80#8 = 0xEDB88320#32 ∧
    crcStep 0x00000000#32 0x01#8 = 0x77073096#32 ∧ crcStep 0xFFFFFFFF#32 0x00#8 = 0x2DFD1072#32) ∧
  (∀ (a₁ a₂ : Word) (b₁ b₂ : Byte), crcStep (a₁ ^^^ a₂) (b₁ ^^^ b₂) = crcStep a₁ b₁ ^^^ crcStep a₂ b₂) ∧
  (∀ b : Byte, Function.Bijective fun a : Word => crcStep a b)

/-- 41_record.md R130: outside EMPTY the payload is what a reader scans from the 71 bytes alone, and every SEALED record passes the
reader's check (R125). -/
def Obligations.SealedRecordsPassTheReader : Prop :=
  ∀ b : Block, RecordOk b →
    (b.rstate ≠ .empty → readerPayload b.recordBytes = b.payload) ∧
    (b.rstate = .sealed → readerAccepts b.recordBytes = true)

/-- R131, R121, R122: the build sequence for any four strings and flag leaves the source's record, of 71 bytes, SEALED, with no error. -/
def Obligations.BuildSequenceGivesTheSourceRecord : Prop :=
  ∀ (c b d t : List Byte) (v : BitVec 1) (s : State), s.blk.err = false →
    (sourceRecord c v b d t).length = 71 ∧
    ∃ u, runCommands (recBuild c v b d t) s = .next u ∧ u.blk.recordBytes = sourceRecord c v b d t ∧
      u.blk.rstate = .sealed ∧ u.blk.err = false ∧ u.blk.crcOut = crc32 (sourcePayload c v b d t) ∧
      u.port = s.port ∧ u.blk.outq = s.blk.outq ∧ u.blk.fopen = s.blk.fopen ∧ u.blk.metaWord = s.blk.metaWord

/-- 42_framer.md R161: with no reset and no rejection, whatever takes and other commands come between, FRM_OPEN, the payload's FRM_BYTEs and
FRM_CLOSE put exactly the payload's frame on the wire. -/
def Obligations.StreamingEqualsTheCall : Prop :=
  ∀ (p : List Byte) (es : List WireEvent) (s t : State), s.port = .free → s.blk.err = false → s.blk.fopen = false →
    framerCommands es = frmSend p → runWire es s = some t →
    t.stream = s.stream ++ frame p ∧ t.blk.fopen = false

/-- R150, R162: the lengths of a frame and its body, and the empty payload's frame. -/
def Obligations.FrameLengths : Prop :=
  (∀ p : List Byte, (b64 p).length = 4 * ((p.length + 2) / 3) ∧ (frame p).length = 4 * ((p.length + 2) / 3) + 2) ∧
  frame [] = [0x24#8, 0x0A#8]

/-- R163: every byte of a body is in the alphabet or is `=`, none is a delimiter, `=` stands only in the last two positions, and a reader that
scans for newlines recovers each frame of a sequence exactly. -/
def Obligations.FrameBodiesHoldNoDelimiter : Prop :=
  (∀ ps : List (List Byte), receive (ps.flatMap frame) = ps.map b64) ∧
  ∀ p : List Byte,
    (∀ c ∈ b64 p, (∃ i : BitVec 6, c = b64Char i) ∨ c = 0x3D#8) ∧ 0x24#8 ∉ b64 p ∧ 0x0A#8 ∉ b64 p ∧
    ∀ k, (b64 p)[k]? = some 0x3D#8 → (b64 p).length ≤ k + 2

/-- 95_test_vectors.md S9, R151 to R154: a body determines its payload, so a decoder can recover it. -/
def Obligations.FramesDetermineTheirPayload : Prop := ∀ p q : List Byte, frame p = frame q → p = q

/-- R166 as log entry 12 reads it (a `$` found mid-stream restarts the body: DEDUCED): a receiver recovers the bodies of a sequence of frames
after noise that holds no `$`, and, after a frame cut short by reset, the next frame's. -/
def Obligations.ReceiverRecoversFrames : Prop :=
  (∀ (noise : List Byte) (ps : List (List Byte)), dollar ∉ noise → receive (noise ++ ps.flatMap frame) = ps.map b64) ∧
  (∀ (p q cut : List Byte), cut <+: frame q → cut ≠ frame q → receive (cut ++ frame p) = [b64 p])

/-- R158, R165: META never reaches the wire nor changes what any other state does. Machines that differ in META alone stay so, stop alike, and give
the host the same responses in every step, but for the data of a 32-bit read of FRM_META. -/
def Obligations.MetaInfluencesNothingElse : Prop :=
  ∀ s s' : State, SameButMeta s s' →
    (∀ r, step s = .fault r → step s' = .fault r) ∧
    ∀ t, step s = .next t → ∃ t', step s' = .next t' ∧ SameButMeta t t' ∧
      ∃ r r' : List Response, t.responses = s.responses ++ r ∧ t'.responses = s'.responses ++ r' ∧
        r.map Response.status = r'.map Response.status ∧
        ((∀ addr, nextAccess s = some (.read .w32 addr) → windowOffset s.cfg addr ≠ some 0x010) → r = r')

/-- 30_encoding.md R89, R90: the word of each command as the assembler writes it, and the expansions of the pseudo-instructions. -/
def Obligations.AssemblerWordsAndExpansions : Prop :=
  (∀ d : Byte, encode (.crcByte d) = 0x02000000#32 ||| d.setWidth 32 ∧ encode (.frmByte d) = 0x21000000#32 ||| d.setWidth 32) ∧
  (∀ (f : TextField) (d : Byte), encode (.recPut f.selector d) = 0x11000000#32 ||| (f.selector.setWidth 32 <<< 16) ||| d.setWidth 32) ∧
  (∀ v : BitVec 1, encode (.recDirty v) = 0x12000000#32 ||| v.setWidth 32) ∧
  (∀ t : Word, frmToken t = [.frmOpen, .frmByte (t.extractLsb' 0 8), .frmByte (t.extractLsb' 8 8), .frmByte (t.extractLsb' 16 8),
    .frmByte (t.extractLsb' 24 8), .frmClose])

/-! ### Reset among the tries of a held write -/

/-- 60_exceptions.md R209, 70_reset_and_hazards.md R232: after a take of a held write, reset may come before the try, which abandons the write, and
right after it, whether the try completed the write, whose OKAY then stands, or left it held, which reset abandons. How turns order the steps
and that the abandoned write gets no response are the model's, log entries 5 and 15. -/
def Obligations.ResetFallsBeforeOrAfterATry : Prop :=
  ∀ (s : State) (w : Word) (b : Byte) (q : List Byte) (ts : List Turn), s.port = .held w → s.blk.outq = b :: q →
    (s.turns = .sink :: .reset :: ts →
      Host.Core.run Sys2Proof.core 2 s = .next { s with
        blk := (State.resetWith s.cfg).blk, port := .free, turns := ts, tx := s.tx ++ [b] }) ∧
    (s.turns = .sink :: .host :: .reset :: ts →
      ∃ u, perform w { s with port := .free, blk := { s.blk with outq := q }, turns := .reset :: ts, tx := s.tx ++ [b] } = .next u ∧
        Host.Core.run Sys2Proof.core 3 s = .next { s with
          blk := (State.resetWith s.cfg).blk, port := .free, turns := ts, tx := s.tx ++ [b]
          responses := if u.port = .free then s.responses ++ [⟨.okay, none⟩] else s.responses })
end

