-- ==== Sys2Proof/Laws/State.lean ====
section
/-! SUPPORT. One lemma per field per update of the state's records, so that no later proof unfolds a record update. -/

namespace Sys2Proof.Machine

/-! ### Updates of the machine's state -/

@[simp] theorem State.withBlock_cfg (s : State) (b : Block) : (s.withBlock b).cfg = s.cfg := rfl
@[simp] theorem State.withBlock_blk (s : State) (b : Block) : (s.withBlock b).blk = b := rfl
@[simp] theorem State.withBlock_port (s : State) (b : Block) : (s.withBlock b).port = s.port := rfl
@[simp] theorem State.withBlock_hostq (s : State) (b : Block) : (s.withBlock b).hostq = s.hostq := rfl
@[simp] theorem State.withBlock_turns (s : State) (b : Block) : (s.withBlock b).turns = s.turns := rfl
@[simp] theorem State.withBlock_tx (s : State) (b : Block) : (s.withBlock b).tx = s.tx := rfl
@[simp] theorem State.withBlock_responses (s : State) (b : Block) : (s.withBlock b).responses = s.responses := rfl

@[simp] theorem State.hold_cfg (s : State) (i : Instr) : (s.hold i).cfg = s.cfg := rfl
@[simp] theorem State.hold_blk (s : State) (i : Instr) : (s.hold i).blk = s.blk := rfl
@[simp] theorem State.hold_port (s : State) (i : Instr) : (s.hold i).port = .held (encode i) := rfl
@[simp] theorem State.hold_hostq (s : State) (i : Instr) : (s.hold i).hostq = s.hostq := rfl
@[simp] theorem State.hold_turns (s : State) (i : Instr) : (s.hold i).turns = s.turns := rfl
@[simp] theorem State.hold_tx (s : State) (i : Instr) : (s.hold i).tx = s.tx := rfl
@[simp] theorem State.hold_responses (s : State) (i : Instr) : (s.hold i).responses = s.responses := rfl

@[simp] theorem State.respond_cfg (s : State) (r : Response) : (s.respond r).cfg = s.cfg := rfl
@[simp] theorem State.respond_blk (s : State) (r : Response) : (s.respond r).blk = s.blk := rfl
@[simp] theorem State.respond_port (s : State) (r : Response) : (s.respond r).port = s.port := rfl
@[simp] theorem State.respond_hostq (s : State) (r : Response) : (s.respond r).hostq = s.hostq := rfl
@[simp] theorem State.respond_turns (s : State) (r : Response) : (s.respond r).turns = s.turns := rfl
@[simp] theorem State.respond_tx (s : State) (r : Response) : (s.respond r).tx = s.tx := rfl
@[simp] theorem State.respond_responses (s : State) (r : Response) : (s.respond r).responses = s.responses ++ [r] := rfl

@[simp] theorem resetStep_cfg (s : State) : (resetStep s).cfg = s.cfg := rfl
@[simp] theorem resetStep_blk (s : State) : (resetStep s).blk = Block.reset := rfl
@[simp] theorem resetStep_port (s : State) : (resetStep s).port = .free := rfl
@[simp] theorem resetStep_hostq (s : State) : (resetStep s).hostq = s.hostq := rfl
@[simp] theorem resetStep_turns (s : State) : (resetStep s).turns = s.turns := rfl
@[simp] theorem resetStep_tx (s : State) : (resetStep s).tx = s.tx := rfl
@[simp] theorem resetStep_responses (s : State) : (resetStep s).responses = s.responses := rfl

/-! ### Updates of the block -/

@[simp] theorem Block.emit_acc (b : Block) (bs : List Byte) : (b.emit bs).acc = b.acc := rfl
@[simp] theorem Block.emit_record (b : Block) (bs : List Byte) : (b.emit bs).record = b.record := rfl
@[simp] theorem Block.emit_rstate (b : Block) (bs : List Byte) : (b.emit bs).rstate = b.rstate := rfl
@[simp] theorem Block.emit_commit (b : Block) (bs : List Byte) : (b.emit bs).commit = b.commit := rfl
@[simp] theorem Block.emit_branch (b : Block) (bs : List Byte) : (b.emit bs).branch = b.branch := rfl
@[simp] theorem Block.emit_date (b : Block) (bs : List Byte) : (b.emit bs).date = b.date := rfl
@[simp] theorem Block.emit_time (b : Block) (bs : List Byte) : (b.emit bs).time = b.time := rfl
@[simp] theorem Block.emit_metaWord (b : Block) (bs : List Byte) : (b.emit bs).metaWord = b.metaWord := rfl
@[simp] theorem Block.emit_fopen (b : Block) (bs : List Byte) : (b.emit bs).fopen = b.fopen := rfl
@[simp] theorem Block.emit_gcnt (b : Block) (bs : List Byte) : (b.emit bs).gcnt = b.gcnt := rfl
@[simp] theorem Block.emit_gbuf0 (b : Block) (bs : List Byte) : (b.emit bs).gbuf0 = b.gbuf0 := rfl
@[simp] theorem Block.emit_gbuf1 (b : Block) (bs : List Byte) : (b.emit bs).gbuf1 = b.gbuf1 := rfl
@[simp] theorem Block.emit_outq (b : Block) (bs : List Byte) : (b.emit bs).outq = b.outq ++ bs := rfl
@[simp] theorem Block.emit_err (b : Block) (bs : List Byte) : (b.emit bs).err = b.err := rfl
@[simp] theorem Block.emit_ecode (b : Block) (bs : List Byte) : (b.emit bs).ecode = b.ecode := rfl

@[simp] theorem Block.clearError_acc (b : Block) : (b.clearError).acc = b.acc := rfl
@[simp] theorem Block.clearError_record (b : Block) : (b.clearError).record = b.record := rfl
@[simp] theorem Block.clearError_rstate (b : Block) : (b.clearError).rstate = b.rstate := rfl
@[simp] theorem Block.clearError_commit (b : Block) : (b.clearError).commit = b.commit := rfl
@[simp] theorem Block.clearError_branch (b : Block) : (b.clearError).branch = b.branch := rfl
@[simp] theorem Block.clearError_date (b : Block) : (b.clearError).date = b.date := rfl
@[simp] theorem Block.clearError_time (b : Block) : (b.clearError).time = b.time := rfl
@[simp] theorem Block.clearError_metaWord (b : Block) : (b.clearError).metaWord = b.metaWord := rfl
@[simp] theorem Block.clearError_fopen (b : Block) : (b.clearError).fopen = b.fopen := rfl
@[simp] theorem Block.clearError_gcnt (b : Block) : (b.clearError).gcnt = b.gcnt := rfl
@[simp] theorem Block.clearError_gbuf0 (b : Block) : (b.clearError).gbuf0 = b.gbuf0 := rfl
@[simp] theorem Block.clearError_gbuf1 (b : Block) : (b.clearError).gbuf1 = b.gbuf1 := rfl
@[simp] theorem Block.clearError_outq (b : Block) : (b.clearError).outq = b.outq := rfl
@[simp] theorem Block.clearError_err (b : Block) : (b.clearError).err = false := rfl
@[simp] theorem Block.clearError_ecode (b : Block) : (b.clearError).ecode = 0#4 := rfl

@[simp] theorem Block.setMeta_acc (b : Block) (v : Word) : (b.setMeta v).acc = b.acc := rfl
@[simp] theorem Block.setMeta_record (b : Block) (v : Word) : (b.setMeta v).record = b.record := rfl
@[simp] theorem Block.setMeta_rstate (b : Block) (v : Word) : (b.setMeta v).rstate = b.rstate := rfl
@[simp] theorem Block.setMeta_commit (b : Block) (v : Word) : (b.setMeta v).commit = b.commit := rfl
@[simp] theorem Block.setMeta_branch (b : Block) (v : Word) : (b.setMeta v).branch = b.branch := rfl
@[simp] theorem Block.setMeta_date (b : Block) (v : Word) : (b.setMeta v).date = b.date := rfl
@[simp] theorem Block.setMeta_time (b : Block) (v : Word) : (b.setMeta v).time = b.time := rfl
@[simp] theorem Block.setMeta_metaWord (b : Block) (v : Word) : (b.setMeta v).metaWord = v := rfl
@[simp] theorem Block.setMeta_fopen (b : Block) (v : Word) : (b.setMeta v).fopen = b.fopen := rfl
@[simp] theorem Block.setMeta_gcnt (b : Block) (v : Word) : (b.setMeta v).gcnt = b.gcnt := rfl
@[simp] theorem Block.setMeta_gbuf0 (b : Block) (v : Word) : (b.setMeta v).gbuf0 = b.gbuf0 := rfl
@[simp] theorem Block.setMeta_gbuf1 (b : Block) (v : Word) : (b.setMeta v).gbuf1 = b.gbuf1 := rfl
@[simp] theorem Block.setMeta_outq (b : Block) (v : Word) : (b.setMeta v).outq = b.outq := rfl
@[simp] theorem Block.setMeta_err (b : Block) (v : Word) : (b.setMeta v).err = b.err := rfl
@[simp] theorem Block.setMeta_ecode (b : Block) (v : Word) : (b.setMeta v).ecode = b.ecode := rfl

@[simp] theorem crcInitEffect_acc (b : Block) : (crcInitEffect b).acc = crcOnes := rfl
@[simp] theorem crcInitEffect_record (b : Block) : (crcInitEffect b).record = b.record := rfl
@[simp] theorem crcInitEffect_rstate (b : Block) : (crcInitEffect b).rstate = b.rstate := rfl
@[simp] theorem crcInitEffect_commit (b : Block) : (crcInitEffect b).commit = b.commit := rfl
@[simp] theorem crcInitEffect_branch (b : Block) : (crcInitEffect b).branch = b.branch := rfl
@[simp] theorem crcInitEffect_date (b : Block) : (crcInitEffect b).date = b.date := rfl
@[simp] theorem crcInitEffect_time (b : Block) : (crcInitEffect b).time = b.time := rfl
@[simp] theorem crcInitEffect_metaWord (b : Block) : (crcInitEffect b).metaWord = b.metaWord := rfl
@[simp] theorem crcInitEffect_fopen (b : Block) : (crcInitEffect b).fopen = b.fopen := rfl
@[simp] theorem crcInitEffect_gcnt (b : Block) : (crcInitEffect b).gcnt = b.gcnt := rfl
@[simp] theorem crcInitEffect_gbuf0 (b : Block) : (crcInitEffect b).gbuf0 = b.gbuf0 := rfl
@[simp] theorem crcInitEffect_gbuf1 (b : Block) : (crcInitEffect b).gbuf1 = b.gbuf1 := rfl
@[simp] theorem crcInitEffect_outq (b : Block) : (crcInitEffect b).outq = b.outq := rfl
@[simp] theorem crcInitEffect_err (b : Block) : (crcInitEffect b).err = b.err := rfl
@[simp] theorem crcInitEffect_ecode (b : Block) : (crcInitEffect b).ecode = b.ecode := rfl

@[simp] theorem crcByteEffect_acc (d : Byte) (b : Block) : (crcByteEffect d b).acc = crcStep b.acc d := rfl
@[simp] theorem crcByteEffect_record (d : Byte) (b : Block) : (crcByteEffect d b).record = b.record := rfl
@[simp] theorem crcByteEffect_rstate (d : Byte) (b : Block) : (crcByteEffect d b).rstate = b.rstate := rfl
@[simp] theorem crcByteEffect_commit (d : Byte) (b : Block) : (crcByteEffect d b).commit = b.commit := rfl
@[simp] theorem crcByteEffect_branch (d : Byte) (b : Block) : (crcByteEffect d b).branch = b.branch := rfl
@[simp] theorem crcByteEffect_date (d : Byte) (b : Block) : (crcByteEffect d b).date = b.date := rfl
@[simp] theorem crcByteEffect_time (d : Byte) (b : Block) : (crcByteEffect d b).time = b.time := rfl
@[simp] theorem crcByteEffect_metaWord (d : Byte) (b : Block) : (crcByteEffect d b).metaWord = b.metaWord := rfl
@[simp] theorem crcByteEffect_fopen (d : Byte) (b : Block) : (crcByteEffect d b).fopen = b.fopen := rfl
@[simp] theorem crcByteEffect_gcnt (d : Byte) (b : Block) : (crcByteEffect d b).gcnt = b.gcnt := rfl
@[simp] theorem crcByteEffect_gbuf0 (d : Byte) (b : Block) : (crcByteEffect d b).gbuf0 = b.gbuf0 := rfl
@[simp] theorem crcByteEffect_gbuf1 (d : Byte) (b : Block) : (crcByteEffect d b).gbuf1 = b.gbuf1 := rfl
@[simp] theorem crcByteEffect_outq (d : Byte) (b : Block) : (crcByteEffect d b).outq = b.outq := rfl
@[simp] theorem crcByteEffect_err (d : Byte) (b : Block) : (crcByteEffect d b).err = b.err := rfl
@[simp] theorem crcByteEffect_ecode (d : Byte) (b : Block) : (crcByteEffect d b).ecode = b.ecode := rfl

@[simp] theorem recBeginEffect_acc (b : Block) : (recBeginEffect b).acc = b.acc := rfl
@[simp] theorem recBeginEffect_record (b : Block) : (recBeginEffect b).record = Memory.writeBytes [] 0 magic := rfl
@[simp] theorem recBeginEffect_rstate (b : Block) : (recBeginEffect b).rstate = .building := rfl
@[simp] theorem recBeginEffect_commit (b : Block) : (recBeginEffect b).commit = .cleared := rfl
@[simp] theorem recBeginEffect_branch (b : Block) : (recBeginEffect b).branch = .cleared := rfl
@[simp] theorem recBeginEffect_date (b : Block) : (recBeginEffect b).date = .cleared := rfl
@[simp] theorem recBeginEffect_time (b : Block) : (recBeginEffect b).time = .cleared := rfl
@[simp] theorem recBeginEffect_metaWord (b : Block) : (recBeginEffect b).metaWord = b.metaWord := rfl
@[simp] theorem recBeginEffect_fopen (b : Block) : (recBeginEffect b).fopen = b.fopen := rfl
@[simp] theorem recBeginEffect_gcnt (b : Block) : (recBeginEffect b).gcnt = b.gcnt := rfl
@[simp] theorem recBeginEffect_gbuf0 (b : Block) : (recBeginEffect b).gbuf0 = b.gbuf0 := rfl
@[simp] theorem recBeginEffect_gbuf1 (b : Block) : (recBeginEffect b).gbuf1 = b.gbuf1 := rfl
@[simp] theorem recBeginEffect_outq (b : Block) : (recBeginEffect b).outq = b.outq := rfl
@[simp] theorem recBeginEffect_err (b : Block) : (recBeginEffect b).err = b.err := rfl
@[simp] theorem recBeginEffect_ecode (b : Block) : (recBeginEffect b).ecode = b.ecode := rfl

@[simp] theorem recDirtyEffect_acc (v : BitVec 1) (b : Block) : (recDirtyEffect v b).acc = b.acc := rfl
@[simp] theorem recDirtyEffect_record (v : BitVec 1) (b : Block) : (recDirtyEffect v b).record = b.record.write dirtyOffset (dirtyByte v) := rfl
@[simp] theorem recDirtyEffect_rstate (v : BitVec 1) (b : Block) : (recDirtyEffect v b).rstate = b.rstate := rfl
@[simp] theorem recDirtyEffect_commit (v : BitVec 1) (b : Block) : (recDirtyEffect v b).commit = b.commit := rfl
@[simp] theorem recDirtyEffect_branch (v : BitVec 1) (b : Block) : (recDirtyEffect v b).branch = b.branch := rfl
@[simp] theorem recDirtyEffect_date (v : BitVec 1) (b : Block) : (recDirtyEffect v b).date = b.date := rfl
@[simp] theorem recDirtyEffect_time (v : BitVec 1) (b : Block) : (recDirtyEffect v b).time = b.time := rfl
@[simp] theorem recDirtyEffect_metaWord (v : BitVec 1) (b : Block) : (recDirtyEffect v b).metaWord = b.metaWord := rfl
@[simp] theorem recDirtyEffect_fopen (v : BitVec 1) (b : Block) : (recDirtyEffect v b).fopen = b.fopen := rfl
@[simp] theorem recDirtyEffect_gcnt (v : BitVec 1) (b : Block) : (recDirtyEffect v b).gcnt = b.gcnt := rfl
@[simp] theorem recDirtyEffect_gbuf0 (v : BitVec 1) (b : Block) : (recDirtyEffect v b).gbuf0 = b.gbuf0 := rfl
@[simp] theorem recDirtyEffect_gbuf1 (v : BitVec 1) (b : Block) : (recDirtyEffect v b).gbuf1 = b.gbuf1 := rfl
@[simp] theorem recDirtyEffect_outq (v : BitVec 1) (b : Block) : (recDirtyEffect v b).outq = b.outq := rfl
@[simp] theorem recDirtyEffect_err (v : BitVec 1) (b : Block) : (recDirtyEffect v b).err = b.err := rfl
@[simp] theorem recDirtyEffect_ecode (v : BitVec 1) (b : Block) : (recDirtyEffect v b).ecode = b.ecode := rfl

@[simp] theorem recSealEffect_acc (b : Block) : (recSealEffect b).acc = crcAcc crcOnes b.payload := rfl
@[simp] theorem recSealEffect_record (b : Block) : (recSealEffect b).record = b.record.writeBytes crcOffset (bytesLE (crcAcc crcOnes b.payload ^^^ crcOnes)) := rfl
@[simp] theorem recSealEffect_rstate (b : Block) : (recSealEffect b).rstate = .sealed := rfl
@[simp] theorem recSealEffect_commit (b : Block) : (recSealEffect b).commit = b.commit := rfl
@[simp] theorem recSealEffect_branch (b : Block) : (recSealEffect b).branch = b.branch := rfl
@[simp] theorem recSealEffect_date (b : Block) : (recSealEffect b).date = b.date := rfl
@[simp] theorem recSealEffect_time (b : Block) : (recSealEffect b).time = b.time := rfl
@[simp] theorem recSealEffect_metaWord (b : Block) : (recSealEffect b).metaWord = b.metaWord := rfl
@[simp] theorem recSealEffect_fopen (b : Block) : (recSealEffect b).fopen = b.fopen := rfl
@[simp] theorem recSealEffect_gcnt (b : Block) : (recSealEffect b).gcnt = b.gcnt := rfl
@[simp] theorem recSealEffect_gbuf0 (b : Block) : (recSealEffect b).gbuf0 = b.gbuf0 := rfl
@[simp] theorem recSealEffect_gbuf1 (b : Block) : (recSealEffect b).gbuf1 = b.gbuf1 := rfl
@[simp] theorem recSealEffect_outq (b : Block) : (recSealEffect b).outq = b.outq := rfl
@[simp] theorem recSealEffect_err (b : Block) : (recSealEffect b).err = b.err := rfl
@[simp] theorem recSealEffect_ecode (b : Block) : (recSealEffect b).ecode = b.ecode := rfl

@[simp] theorem frmOpenEffect_acc (b : Block) : (frmOpenEffect b).acc = b.acc := rfl
@[simp] theorem frmOpenEffect_record (b : Block) : (frmOpenEffect b).record = b.record := rfl
@[simp] theorem frmOpenEffect_rstate (b : Block) : (frmOpenEffect b).rstate = b.rstate := rfl
@[simp] theorem frmOpenEffect_commit (b : Block) : (frmOpenEffect b).commit = b.commit := rfl
@[simp] theorem frmOpenEffect_branch (b : Block) : (frmOpenEffect b).branch = b.branch := rfl
@[simp] theorem frmOpenEffect_date (b : Block) : (frmOpenEffect b).date = b.date := rfl
@[simp] theorem frmOpenEffect_time (b : Block) : (frmOpenEffect b).time = b.time := rfl
@[simp] theorem frmOpenEffect_metaWord (b : Block) : (frmOpenEffect b).metaWord = b.metaWord := rfl
@[simp] theorem frmOpenEffect_fopen (b : Block) : (frmOpenEffect b).fopen = true := rfl
@[simp] theorem frmOpenEffect_gcnt (b : Block) : (frmOpenEffect b).gcnt = 0 := rfl
@[simp] theorem frmOpenEffect_gbuf0 (b : Block) : (frmOpenEffect b).gbuf0 = b.gbuf0 := rfl
@[simp] theorem frmOpenEffect_gbuf1 (b : Block) : (frmOpenEffect b).gbuf1 = b.gbuf1 := rfl
@[simp] theorem frmOpenEffect_outq (b : Block) : (frmOpenEffect b).outq = b.outq ++ [dollar] := rfl
@[simp] theorem frmOpenEffect_err (b : Block) : (frmOpenEffect b).err = b.err := rfl
@[simp] theorem frmOpenEffect_ecode (b : Block) : (frmOpenEffect b).ecode = b.ecode := rfl

@[simp] theorem frmCloseEffect_acc (b : Block) : (frmCloseEffect b).acc = b.acc := rfl
@[simp] theorem frmCloseEffect_record (b : Block) : (frmCloseEffect b).record = b.record := rfl
@[simp] theorem frmCloseEffect_rstate (b : Block) : (frmCloseEffect b).rstate = b.rstate := rfl
@[simp] theorem frmCloseEffect_commit (b : Block) : (frmCloseEffect b).commit = b.commit := rfl
@[simp] theorem frmCloseEffect_branch (b : Block) : (frmCloseEffect b).branch = b.branch := rfl
@[simp] theorem frmCloseEffect_date (b : Block) : (frmCloseEffect b).date = b.date := rfl
@[simp] theorem frmCloseEffect_time (b : Block) : (frmCloseEffect b).time = b.time := rfl
@[simp] theorem frmCloseEffect_metaWord (b : Block) : (frmCloseEffect b).metaWord = b.metaWord := rfl
@[simp] theorem frmCloseEffect_fopen (b : Block) : (frmCloseEffect b).fopen = false := rfl
@[simp] theorem frmCloseEffect_gcnt (b : Block) : (frmCloseEffect b).gcnt = 0 := rfl
@[simp] theorem frmCloseEffect_gbuf0 (b : Block) : (frmCloseEffect b).gbuf0 = 0#8 := rfl
@[simp] theorem frmCloseEffect_gbuf1 (b : Block) : (frmCloseEffect b).gbuf1 = 0#8 := rfl
@[simp] theorem frmCloseEffect_outq (b : Block) : (frmCloseEffect b).outq = b.outq ++ (b.tail ++ [newline]) := rfl
@[simp] theorem frmCloseEffect_err (b : Block) : (frmCloseEffect b).err = b.err := rfl
@[simp] theorem frmCloseEffect_ecode (b : Block) : (frmCloseEffect b).ecode = b.ecode := rfl

/-! ### Updates that branch: the fields they leave alone -/

@[simp] theorem Block.raise_acc (b : Block) (e : CmdError) : (b.raise e).acc = b.acc := by unfold Block.raise; split <;> rfl
@[simp] theorem Block.raise_record (b : Block) (e : CmdError) : (b.raise e).record = b.record := by unfold Block.raise; split <;> rfl
@[simp] theorem Block.raise_rstate (b : Block) (e : CmdError) : (b.raise e).rstate = b.rstate := by unfold Block.raise; split <;> rfl
@[simp] theorem Block.raise_commit (b : Block) (e : CmdError) : (b.raise e).commit = b.commit := by unfold Block.raise; split <;> rfl
@[simp] theorem Block.raise_branch (b : Block) (e : CmdError) : (b.raise e).branch = b.branch := by unfold Block.raise; split <;> rfl
@[simp] theorem Block.raise_date (b : Block) (e : CmdError) : (b.raise e).date = b.date := by unfold Block.raise; split <;> rfl
@[simp] theorem Block.raise_time (b : Block) (e : CmdError) : (b.raise e).time = b.time := by unfold Block.raise; split <;> rfl
@[simp] theorem Block.raise_metaWord (b : Block) (e : CmdError) : (b.raise e).metaWord = b.metaWord := by unfold Block.raise; split <;> rfl
@[simp] theorem Block.raise_fopen (b : Block) (e : CmdError) : (b.raise e).fopen = b.fopen := by unfold Block.raise; split <;> rfl
@[simp] theorem Block.raise_gcnt (b : Block) (e : CmdError) : (b.raise e).gcnt = b.gcnt := by unfold Block.raise; split <;> rfl
@[simp] theorem Block.raise_gbuf0 (b : Block) (e : CmdError) : (b.raise e).gbuf0 = b.gbuf0 := by unfold Block.raise; split <;> rfl
@[simp] theorem Block.raise_gbuf1 (b : Block) (e : CmdError) : (b.raise e).gbuf1 = b.gbuf1 := by unfold Block.raise; split <;> rfl
@[simp] theorem Block.raise_outq (b : Block) (e : CmdError) : (b.raise e).outq = b.outq := by unfold Block.raise; split <;> rfl

/-- A rejection while no error is latched latches the first one (60_exceptions.md R203). -/
theorem Block.raise_of_clear {b : Block} (h : b.err = false) (e : CmdError) :
    b.raise e = { b with err := true, ecode := e.code } := by simp [Block.raise, h]

/-- A rejection while an error is latched changes nothing (R203). -/
theorem Block.raise_of_latched {b : Block} (h : b.err = true) (e : CmdError) : b.raise e = b := by simp [Block.raise, h]

@[simp] theorem Block.setText_acc (b : Block) (f : TextField) (t : TextState) : (b.setText f t).acc = b.acc := by cases f <;> rfl
@[simp] theorem Block.setText_record (b : Block) (f : TextField) (t : TextState) : (b.setText f t).record = b.record := by cases f <;> rfl
@[simp] theorem Block.setText_rstate (b : Block) (f : TextField) (t : TextState) : (b.setText f t).rstate = b.rstate := by cases f <;> rfl
@[simp] theorem Block.setText_metaWord (b : Block) (f : TextField) (t : TextState) : (b.setText f t).metaWord = b.metaWord := by cases f <;> rfl
@[simp] theorem Block.setText_fopen (b : Block) (f : TextField) (t : TextState) : (b.setText f t).fopen = b.fopen := by cases f <;> rfl
@[simp] theorem Block.setText_gcnt (b : Block) (f : TextField) (t : TextState) : (b.setText f t).gcnt = b.gcnt := by cases f <;> rfl
@[simp] theorem Block.setText_gbuf0 (b : Block) (f : TextField) (t : TextState) : (b.setText f t).gbuf0 = b.gbuf0 := by cases f <;> rfl
@[simp] theorem Block.setText_gbuf1 (b : Block) (f : TextField) (t : TextState) : (b.setText f t).gbuf1 = b.gbuf1 := by cases f <;> rfl
@[simp] theorem Block.setText_outq (b : Block) (f : TextField) (t : TextState) : (b.setText f t).outq = b.outq := by cases f <;> rfl
@[simp] theorem Block.setText_err (b : Block) (f : TextField) (t : TextState) : (b.setText f t).err = b.err := by cases f <;> rfl
@[simp] theorem Block.setText_ecode (b : Block) (f : TextField) (t : TextState) : (b.setText f t).ecode = b.ecode := by cases f <;> rfl

@[simp] theorem Block.text_setText_same (b : Block) (f : TextField) (t : TextState) : (b.setText f t).text f = t := by
  cases f <;> rfl

theorem Block.text_setText_other (b : Block) {f g : TextField} (t : TextState) (h : g ≠ f) :
    (b.setText f t).text g = b.text g := by cases f <;> cases g <;> first | rfl | exact absurd rfl h

/-- `Block.text` reads the four string fields alone. -/
@[simp] theorem Block.text_with_record (b : Block) (m : Memory) (f : TextField) :
    Block.text { b with record := m } f = b.text f := by cases f <;> rfl

@[simp] theorem frmByteEffect_acc (d : Byte) (b : Block) : (frmByteEffect d b).acc = b.acc := by unfold frmByteEffect; split <;> rfl
@[simp] theorem frmByteEffect_record (d : Byte) (b : Block) : (frmByteEffect d b).record = b.record := by unfold frmByteEffect; split <;> rfl
@[simp] theorem frmByteEffect_rstate (d : Byte) (b : Block) : (frmByteEffect d b).rstate = b.rstate := by unfold frmByteEffect; split <;> rfl
@[simp] theorem frmByteEffect_commit (d : Byte) (b : Block) : (frmByteEffect d b).commit = b.commit := by unfold frmByteEffect; split <;> rfl
@[simp] theorem frmByteEffect_branch (d : Byte) (b : Block) : (frmByteEffect d b).branch = b.branch := by unfold frmByteEffect; split <;> rfl
@[simp] theorem frmByteEffect_date (d : Byte) (b : Block) : (frmByteEffect d b).date = b.date := by unfold frmByteEffect; split <;> rfl
@[simp] theorem frmByteEffect_time (d : Byte) (b : Block) : (frmByteEffect d b).time = b.time := by unfold frmByteEffect; split <;> rfl
@[simp] theorem frmByteEffect_metaWord (d : Byte) (b : Block) : (frmByteEffect d b).metaWord = b.metaWord := by unfold frmByteEffect; split <;> rfl
@[simp] theorem frmByteEffect_fopen (d : Byte) (b : Block) : (frmByteEffect d b).fopen = b.fopen := by unfold frmByteEffect; split <;> rfl
@[simp] theorem frmByteEffect_err (d : Byte) (b : Block) : (frmByteEffect d b).err = b.err := by unfold frmByteEffect; split <;> rfl
@[simp] theorem frmByteEffect_ecode (d : Byte) (b : Block) : (frmByteEffect d b).ecode = b.ecode := by unfold frmByteEffect; split <;> rfl

@[simp] theorem putEffect_acc (x : TextField) (d : Byte) (b : Block) : (putEffect x d b).acc = b.acc := by
  unfold putEffect; dsimp only; repeat' split
  all_goals simp
@[simp] theorem putEffect_rstate (x : TextField) (d : Byte) (b : Block) : (putEffect x d b).rstate = b.rstate := by
  unfold putEffect; dsimp only; repeat' split
  all_goals simp
@[simp] theorem putEffect_metaWord (x : TextField) (d : Byte) (b : Block) : (putEffect x d b).metaWord = b.metaWord := by
  unfold putEffect; dsimp only; repeat' split
  all_goals simp
@[simp] theorem putEffect_fopen (x : TextField) (d : Byte) (b : Block) : (putEffect x d b).fopen = b.fopen := by
  unfold putEffect; dsimp only; repeat' split
  all_goals simp
@[simp] theorem putEffect_gcnt (x : TextField) (d : Byte) (b : Block) : (putEffect x d b).gcnt = b.gcnt := by
  unfold putEffect; dsimp only; repeat' split
  all_goals simp
@[simp] theorem putEffect_gbuf0 (x : TextField) (d : Byte) (b : Block) : (putEffect x d b).gbuf0 = b.gbuf0 := by
  unfold putEffect; dsimp only; repeat' split
  all_goals simp
@[simp] theorem putEffect_gbuf1 (x : TextField) (d : Byte) (b : Block) : (putEffect x d b).gbuf1 = b.gbuf1 := by
  unfold putEffect; dsimp only; repeat' split
  all_goals simp
@[simp] theorem putEffect_outq (x : TextField) (d : Byte) (b : Block) : (putEffect x d b).outq = b.outq := by
  unfold putEffect; dsimp only; repeat' split
  all_goals simp
@[simp] theorem putEffect_err (x : TextField) (d : Byte) (b : Block) : (putEffect x d b).err = b.err := by
  unfold putEffect; dsimp only; repeat' split
  all_goals simp
@[simp] theorem putEffect_ecode (x : TextField) (d : Byte) (b : Block) : (putEffect x d b).ecode = b.ecode := by
  unfold putEffect; dsimp only; repeat' split
  all_goals simp

@[simp] theorem recPutEffect_acc (f : BitVec 3) (d : Byte) (b : Block) : (recPutEffect f d b).acc = b.acc := by
  unfold recPutEffect; split <;> simp
@[simp] theorem recPutEffect_rstate (f : BitVec 3) (d : Byte) (b : Block) : (recPutEffect f d b).rstate = b.rstate := by
  unfold recPutEffect; split <;> simp
@[simp] theorem recPutEffect_metaWord (f : BitVec 3) (d : Byte) (b : Block) : (recPutEffect f d b).metaWord = b.metaWord := by
  unfold recPutEffect; split <;> simp
@[simp] theorem recPutEffect_fopen (f : BitVec 3) (d : Byte) (b : Block) : (recPutEffect f d b).fopen = b.fopen := by
  unfold recPutEffect; split <;> simp
@[simp] theorem recPutEffect_gcnt (f : BitVec 3) (d : Byte) (b : Block) : (recPutEffect f d b).gcnt = b.gcnt := by
  unfold recPutEffect; split <;> simp
@[simp] theorem recPutEffect_gbuf0 (f : BitVec 3) (d : Byte) (b : Block) : (recPutEffect f d b).gbuf0 = b.gbuf0 := by
  unfold recPutEffect; split <;> simp
@[simp] theorem recPutEffect_gbuf1 (f : BitVec 3) (d : Byte) (b : Block) : (recPutEffect f d b).gbuf1 = b.gbuf1 := by
  unfold recPutEffect; split <;> simp
@[simp] theorem recPutEffect_outq (f : BitVec 3) (d : Byte) (b : Block) : (recPutEffect f d b).outq = b.outq := by
  unfold recPutEffect; split <;> simp
@[simp] theorem recPutEffect_err (f : BitVec 3) (d : Byte) (b : Block) : (recPutEffect f d b).err = b.err := by
  unfold recPutEffect; split <;> simp
@[simp] theorem recPutEffect_ecode (f : BitVec 3) (d : Byte) (b : Block) : (recPutEffect f d b).ecode = b.ecode := by
  unfold recPutEffect; split <;> simp

@[simp] theorem sinkTake_cfg (s : State) : (sinkTake s).cfg = s.cfg := by unfold sinkTake; split <;> rfl
@[simp] theorem sinkTake_hostq (s : State) : (sinkTake s).hostq = s.hostq := by unfold sinkTake; split <;> rfl
@[simp] theorem sinkTake_turns (s : State) : (sinkTake s).turns = s.turns := by unfold sinkTake; split <;> rfl
@[simp] theorem sinkTake_responses (s : State) : (sinkTake s).responses = s.responses := by unfold sinkTake; split <;> rfl

@[simp] theorem acknowledge_cfg (s : State) : (acknowledge s).cfg = s.cfg := by unfold acknowledge; split <;> rfl
@[simp] theorem acknowledge_blk (s : State) : (acknowledge s).blk = s.blk := by unfold acknowledge; split <;> rfl
@[simp] theorem acknowledge_port (s : State) : (acknowledge s).port = s.port := by unfold acknowledge; split <;> rfl
@[simp] theorem acknowledge_hostq (s : State) : (acknowledge s).hostq = s.hostq := by unfold acknowledge; split <;> rfl
@[simp] theorem acknowledge_turns (s : State) : (acknowledge s).turns = s.turns := by unfold acknowledge; split <;> rfl
@[simp] theorem acknowledge_tx (s : State) : (acknowledge s).tx = s.tx := by unfold acknowledge; split <;> rfl

end Sys2Proof.Machine
end

