-- ==== Sys2Proof/Laws/Memory.lean ====
section
/-! SUPPORT. The laws of the record buffer: a read after a write, and the canonical form that every operation keeps. -/

namespace Sys2Proof.Machine

@[simp] theorem Memory.read_nil (i : Nat) : Memory.read [] i = 0#8 := rfl

/-- An index below every listed one reads 0x00. -/
theorem Memory.read_of_forall_lt {m : Memory} {i : Nat} (h : ∀ c ∈ m, i < c.1) : m.read i = 0#8 := by
  induction m with
  | nil => rfl
  | cons c m ih =>
    have hc := h c (by simp)
    simp only [Memory.read]
    rw [if_neg (by omega)]
    exact ih fun d hd => h d (by simp [hd])

/-- A read after a write to the same index of a canonical buffer gives the byte written. -/
theorem Memory.read_write_same {m : Memory} (h : m.wf) (i : Nat) (v : Byte) : (m.write i v).read i = v := by
  induction m with
  | nil => by_cases hv : v = 0#8 <;> simp [Memory.write, Memory.read, hv]
  | cons c m ih =>
    obtain ⟨k, x⟩ := c
    have hw : Memory.wf m := ⟨(List.pairwise_cons.1 h.1).2, fun d hd => h.2 d (by simp [hd])⟩
    have hlt := (List.pairwise_cons.1 h.1).1
    simp only [Memory.write]
    split
    · next hk =>
      subst hk
      split
      · next hv => rw [hv]; exact Memory.read_of_forall_lt fun d hd => hlt d hd
      · simp [Memory.read]
    · next hk =>
      split
      · next hik =>
        split
        · next hv =>
          rw [hv]
          refine Memory.read_of_forall_lt fun d hd => ?_
          rcases List.mem_cons.1 hd with rfl | hd
          · exact hik
          · exact Nat.lt_trans hik (hlt d hd)
        · simp [Memory.read]
      · simp only [Memory.read, if_neg hk]; exact ih hw

/-- A write leaves every other index alone. -/
theorem Memory.read_write_other (m : Memory) {i j : Nat} (v : Byte) (h : j ≠ i) : (m.write i v).read j = m.read j := by
  induction m with
  | nil => by_cases hv : v = 0#8 <;> simp [Memory.write, Memory.read, hv, Ne.symm h]
  | cons c m ih =>
    obtain ⟨k, x⟩ := c
    simp only [Memory.write]
    split
    · next hk =>
      subst hk
      split <;> simp [Memory.read, Ne.symm h]
    · split
      · split <;> simp [Memory.read, Ne.symm h]
      · simp only [Memory.read, ih]

/-- A read after a write to a canonical buffer, both cases. -/
theorem Memory.read_write {m : Memory} (h : m.wf) (i j : Nat) (v : Byte) :
    (m.write i v).read j = if j = i then v else m.read j := by
  split
  · next e => rw [e, Memory.read_write_same h]
  · next e => exact Memory.read_write_other m v e

/-- Every cell of a written buffer is the new one or an old one. -/
theorem Memory.mem_write {m : Memory} {i : Nat} {v : Byte} {c : Host.Cell} (h : c ∈ m.write i v) :
    (c = (i, v) ∧ v ≠ 0#8) ∨ c ∈ m := by
  induction m with
  | nil =>
    by_cases hv : v = 0#8
    · simp [Memory.write, hv] at h
    · simp [Memory.write, hv] at h
      exact .inl ⟨h, hv⟩
  | cons d m ih =>
    obtain ⟨k, x⟩ := d
    simp only [Memory.write] at h
    split at h
    · split at h
      · exact .inr (by simp [h])
      · next hv =>
        rcases List.mem_cons.1 h with h | h
        · exact .inl ⟨h, hv⟩
        · exact .inr (by simp [h])
    · split at h
      · split at h
        · exact .inr h
        · next hv =>
          rcases List.mem_cons.1 h with h | h
          · exact .inl ⟨h, hv⟩
          · exact .inr h
      · rcases List.mem_cons.1 h with h | h
        · exact .inr (by simp [h])
        · rcases ih h with h | h
          · exact .inl h
          · exact .inr (by simp [h])

/-- A write keeps the canonical form. -/
theorem Memory.wf_write {m : Memory} (h : m.wf) (i : Nat) (v : Byte) : (m.write i v).wf := by
  induction m with
  | nil => by_cases hv : v = 0#8 <;> simp [Memory.write, Memory.wf, hv]
  | cons c m ih =>
    obtain ⟨k, x⟩ := c
    have hw : Memory.wf m := ⟨(List.pairwise_cons.1 h.1).2, fun d hd => h.2 d (by simp [hd])⟩
    have hlt := (List.pairwise_cons.1 h.1).1
    have hx := h.2 (k, x) (by simp)
    simp only [Memory.write]
    split
    · next hk =>
      subst hk
      split
      · exact hw
      · next hv => exact ⟨List.pairwise_cons.2 ⟨hlt, hw.1⟩, by
          intro d hd
          rcases List.mem_cons.1 hd with rfl | hd
          · exact hv
          · exact hw.2 d hd⟩
    · next hk =>
      split
      · next hik =>
        split
        · exact h
        · next hv => exact ⟨List.pairwise_cons.2 ⟨by
            intro d hd
            rcases List.mem_cons.1 hd with rfl | hd
            · exact hik
            · exact Nat.lt_trans hik (hlt d hd), h.1⟩, by
            intro d hd
            rcases List.mem_cons.1 hd with rfl | hd
            · exact hv
            · exact h.2 d hd⟩
      · next hik =>
        have hm := ih hw
        refine ⟨List.pairwise_cons.2 ⟨fun d hd => ?_, hm.1⟩, fun d hd => ?_⟩
        · rcases Memory.mem_write hd with ⟨rfl, -⟩ | hd
          · show k < i
            omega
          · exact hlt d hd
        · rcases List.mem_cons.1 hd with rfl | hd
          · exact hx
          · exact hm.2 d hd

/-- A write inside a bound keeps every cell inside it. -/
theorem Memory.bounded_write {m : Memory} {n i : Nat} (h : ∀ c ∈ m, c.1 < n) (hi : i < n) (v : Byte) :
    ∀ c ∈ m.write i v, c.1 < n := by
  intro c hc
  rcases Memory.mem_write hc with ⟨rfl, -⟩ | hc
  · exact hi
  · exact h c hc

/-- Writing several bytes keeps the canonical form. -/
theorem Memory.wf_writeBytes {m : Memory} (h : m.wf) (i : Nat) (bs : List Byte) : (m.writeBytes i bs).wf := by
  induction bs generalizing m i with
  | nil => exact h
  | cons b bs ih => exact ih (Memory.wf_write h i b) (i + 1)

/-- Writing several bytes inside a bound keeps every cell inside it. -/
theorem Memory.bounded_writeBytes {m : Memory} {n i : Nat} (h : ∀ c ∈ m, c.1 < n) (bs : List Byte)
    (hi : i + bs.length ≤ n) : ∀ c ∈ m.writeBytes i bs, c.1 < n := by
  induction bs generalizing m i with
  | nil => exact h
  | cons b bs ih =>
    simp only [List.length_cons] at hi
    exact ih (Memory.bounded_write h (by omega) b) (by omega)

/-- A read outside the bytes written. -/
theorem Memory.read_writeBytes_outside (m : Memory) {i j : Nat} (bs : List Byte) (h : j < i ∨ i + bs.length ≤ j) :
    (m.writeBytes i bs).read j = m.read j := by
  induction bs generalizing m i with
  | nil => rfl
  | cons b bs ih =>
    simp only [List.length_cons] at h
    rw [Memory.writeBytes, ih _ (by omega), Memory.read_write_other _ _ (by omega)]

/-- A read of one of the bytes written to a canonical buffer. -/
theorem Memory.read_writeBytes_inside {m : Memory} (hm : m.wf) (i : Nat) (bs : List Byte) (k : Nat) (h : k < bs.length) :
    (m.writeBytes i bs).read (i + k) = bs[k] := by
  induction bs generalizing m i k with
  | nil => simp at h
  | cons b bs ih =>
    rw [Memory.writeBytes]
    cases k with
    | zero =>
      rw [Memory.read_writeBytes_outside _ _ (by omega), Nat.add_zero, Memory.read_write_same hm]
      rfl
    | succ k =>
      have := ih (Memory.wf_write hm i b) (i + 1) k (by simpa using h)
      rw [show i + (k + 1) = i + 1 + k by omega, this]
      rfl

@[simp] theorem Memory.length_readBytes (m : Memory) (i n : Nat) : (m.readBytes i n).length = n := by
  simp [Memory.readBytes]

@[simp] theorem Memory.readBytes_zero (m : Memory) (i : Nat) : m.readBytes i 0 = [] := rfl

/-- One more byte at the end. -/
theorem Memory.readBytes_succ (m : Memory) (i n : Nat) : m.readBytes i (n + 1) = m.readBytes i n ++ [m.read (i + n)] := by
  simp [Memory.readBytes, List.range_succ]

/-- The bytes read depend on the bytes of the buffer there alone. -/
theorem Memory.readBytes_congr {m m' : Memory} {i n : Nat} (h : ∀ j, j < n → m.read (i + j) = m'.read (i + j)) :
    m.readBytes i n = m'.readBytes i n := by
  simp only [Memory.readBytes]
  exact List.map_congr_left fun j hj => h j (List.mem_range.1 hj)

/-- The bytes written are the bytes read. -/
theorem Memory.readBytes_writeBytes {m : Memory} (hm : m.wf) (i : Nat) (bs : List Byte) :
    (m.writeBytes i bs).readBytes i bs.length = bs := by
  refine List.ext_getElem (by simp) fun k h₁ h₂ => ?_
  simp only [Memory.readBytes, List.getElem_map, List.getElem_range]
  exact Memory.read_writeBytes_inside hm i bs k h₂

/-- Canonical buffers that read alike are equal. -/
theorem Memory.ext_of_wf {m m' : Memory} (h : m.wf) (h' : m'.wf) (e : ∀ i, m.read i = m'.read i) : m = m' := by
  induction m generalizing m' with
  | nil =>
    cases m' with
    | nil => rfl
    | cons c m' =>
      have := e c.1
      simp [Memory.read] at this
      exact absurd this.symm (h'.2 c (by simp))
  | cons c m ih =>
    obtain ⟨k, v⟩ := c
    have hlt := (List.pairwise_cons.1 h.1).1
    have hv := h.2 (k, v) (by simp)
    cases m' with
    | nil =>
      have := e k
      simp [Memory.read] at this
      exact absurd this hv
    | cons c' m' =>
      obtain ⟨k', v'⟩ := c'
      have hlt' := (List.pairwise_cons.1 h'.1).1
      have hv' := h'.2 (k', v') (by simp)
      have hk : k = k' := by
        rcases Nat.lt_trichotomy k k' with hkk | hkk | hkk
        · have := e k
          rw [Memory.read_of_forall_lt (m := (k', v') :: m') (i := k) (by
            intro d hd
            rcases List.mem_cons.1 hd with rfl | hd
            · exact hkk
            · exact Nat.lt_trans hkk (hlt' d hd))] at this
          simp [Memory.read] at this
          exact absurd this hv
        · exact hkk
        · have := e k'
          rw [Memory.read_of_forall_lt (m := (k, v) :: m) (i := k') (by
            intro d hd
            rcases List.mem_cons.1 hd with rfl | hd
            · exact hkk
            · exact Nat.lt_trans hkk (hlt d hd))] at this
          simp [Memory.read] at this
          exact absurd this.symm hv'
      subst hk
      have hvv : v = v' := by simpa [Memory.read] using e k
      subst hvv
      have : m = m' := by
        refine ih ⟨(List.pairwise_cons.1 h.1).2, fun d hd => h.2 d (by simp [hd])⟩
          ⟨(List.pairwise_cons.1 h'.1).2, fun d hd => h'.2 d (by simp [hd])⟩ fun i => ?_
        by_cases hi : k = i
        · subst hi
          rw [Memory.read_of_forall_lt hlt, Memory.read_of_forall_lt hlt']
        · have := e i
          simpa [Memory.read, hi] using this
      rw [this]

/-- The reset buffer lists nothing and is canonical. -/
theorem Memory.wf_reset : Block.reset.record.wf := by decide

end Sys2Proof.Machine
end

