-- ==== Sys2Proof/Laws/Ops.lean ====
section
/-! SUPPORT. What the frame every command runs in can do, said once; and from it what exec can do for any command. -/

namespace Sys2Proof.Machine

/-- Everything `runCommand` can do: discard, reject, hold, or the effect. -/
theorem runCommand_cases {i : Instr} {check : Block → Option CmdError} {waits : Nat → Block → Bool} {effect : Block → Block}
    {s t : State} (h : runCommand i check waits effect s = .next t) :
    (s.blk.err = true ∧ t = s) ∨
    (s.blk.err = false ∧ ∃ e, check s.blk = some e ∧ t = s.withBlock (s.blk.raise e)) ∨
    (s.blk.err = false ∧ check s.blk = none ∧ waits s.cfg.outqDepth s.blk = true ∧ t = s.hold i) ∨
    (s.blk.err = false ∧ check s.blk = none ∧ waits s.cfg.outqDepth s.blk = false ∧ t = s.withBlock (effect s.blk)) := by
  unfold runCommand at h
  split at h
  · next he => cases h; exact .inl ⟨he, rfl⟩
  · next he =>
    have he : s.blk.err = false := by simpa using he
    split at h
    · next e hc => cases h; exact .inr (.inl ⟨he, e, hc, rfl⟩)
    · next hc =>
      split at h
      · next hw => cases h; exact .inr (.inr (.inl ⟨he, hc, hw, rfl⟩))
      · next hw => cases h; exact .inr (.inr (.inr ⟨he, hc, by simpa using hw, rfl⟩))

/-- A command is discarded while an error is latched (60_exceptions.md R204). -/
theorem runCommand_discard {i : Instr} {check : Block → Option CmdError} {waits : Nat → Block → Bool}
    {effect : Block → Block} {s : State} (he : s.blk.err = true) : runCommand i check waits effect s = .next s := by
  simp [runCommand, he]

/-- A command whose check fails is rejected (R203). -/
theorem runCommand_reject {i : Instr} {check : Block → Option CmdError} {waits : Nat → Block → Bool}
    {effect : Block → Block} {s : State} {e : CmdError} (he : s.blk.err = false) (hc : check s.blk = some e) :
    runCommand i check waits effect s = .next (s.withBlock { s.blk with err := true, ecode := e.code }) := by
  simp [runCommand, he, hc, Block.raise_of_clear he]

/-- A command that must wait is held (20_memory.md R60). -/
theorem runCommand_hold {i : Instr} {check : Block → Option CmdError} {waits : Nat → Block → Bool}
    {effect : Block → Block} {s : State} (he : s.blk.err = false) (hc : check s.blk = none)
    (hw : waits s.cfg.outqDepth s.blk = true) : runCommand i check waits effect s = .next (s.hold i) := by
  simp [runCommand, he, hc, hw]

/-- A command that passes its checks and need not wait has its effect. -/
theorem runCommand_effect {i : Instr} {check : Block → Option CmdError} {waits : Nat → Block → Bool}
    {effect : Block → Block} {s : State} (he : s.blk.err = false) (hc : check s.blk = none)
    (hw : waits s.cfg.outqDepth s.blk = false) : runCommand i check waits effect s = .next (s.withBlock (effect s.blk)) := by
  simp [runCommand, he, hc, hw]

/-- Every command but NOP and CLR_ERR runs in the frame, with its own check, hold check and effect. -/
theorem exec_eq_runCommand {i : Instr} (h : exemptOp i.opcode.bits = false) :
    exec i = runCommand i (commandCheck i) (commandWaits i) (commandEffect i) := by
  cases i <;> first | rfl | exact absurd h (by decide)

/-- Everything a command can do: nothing (discarded), a rejection, a hold, or its effect. -/
theorem exec_cases {i : Instr} {s t : State} (h : exec i s = .next t) :
    (s.blk.err = true ∧ exemptOp i.opcode.bits = false ∧ t = s) ∨
    (s.blk.err = false ∧ ∃ e, commandCheck i s.blk = some e ∧ t = s.withBlock (s.blk.raise e)) ∨
    (s.blk.err = false ∧ commandCheck i s.blk = none ∧ commandWaits i s.cfg.outqDepth s.blk = true ∧ t = s.hold i) ∨
    ((s.blk.err = false ∨ exemptOp i.opcode.bits = true) ∧ commandCheck i s.blk = none ∧
      commandWaits i s.cfg.outqDepth s.blk = false ∧ t = s.withBlock (commandEffect i s.blk)) := by
  by_cases hx : exemptOp i.opcode.bits = true
  · cases i <;> first | exact absurd (show false = true from hx) Bool.false_ne_true | skip
    all_goals
      cases h
      exact .inr (.inr (.inr ⟨.inr hx, rfl, rfl, rfl⟩))
  · have hx : exemptOp i.opcode.bits = false := by simpa using hx
    rw [exec_eq_runCommand hx] at h
    rcases runCommand_cases h with ⟨he, ht⟩ | h | h | ⟨he, hc, hw, ht⟩
    · exact .inl ⟨he, hx, ht⟩
    · exact .inr (.inl h)
    · exact .inr (.inr (.inl h))
    · exact .inr (.inr (.inr ⟨.inl he, hc, hw, ht⟩))

/-- A command always answers a next state. -/
theorem exec_answers (i : Instr) (s : State) : ∃ t, exec i s = .next t := by
  by_cases hx : exemptOp i.opcode.bits = true
  · cases i <;> first | exact absurd (show false = true from hx) Bool.false_ne_true | exact ⟨_, rfl⟩
  · have hx : exemptOp i.opcode.bits = false := by simpa using hx
    rw [exec_eq_runCommand hx]
    unfold runCommand
    split
    · exact ⟨_, rfl⟩
    · split
      · exact ⟨_, rfl⟩
      · split <;> exact ⟨_, rfl⟩

/-- A command that passes its checks and need not wait has its effect. -/
theorem exec_effect {i : Instr} {s : State} (he : s.blk.err = false ∨ exemptOp i.opcode.bits = true)
    (hc : commandCheck i s.blk = none) (hw : commandWaits i s.cfg.outqDepth s.blk = false) :
    exec i s = .next (s.withBlock (commandEffect i s.blk)) := by
  obtain ⟨t, ht⟩ := exec_answers i s
  rcases exec_cases ht with ⟨h, hx, -⟩ | ⟨-, e, h, -⟩ | ⟨-, -, h, -⟩ | ⟨-, -, -, rfl⟩
  · simp [h, hx] at he
  · rw [hc] at h; cases h
  · rw [hw] at h; cases h
  · exact ht

/-- A command whose check fails is rejected. -/
theorem exec_reject {i : Instr} {s : State} {e : CmdError} (he : s.blk.err = false) (hc : commandCheck i s.blk = some e) :
    exec i s = .next (s.rejected e.code) := by
  obtain ⟨t, ht⟩ := exec_answers i s
  rcases exec_cases ht with ⟨h, -, -⟩ | ⟨-, e', h, rfl⟩ | ⟨-, h, -, -⟩ | ⟨-, h, -, -⟩
  · rw [he] at h; cases h
  · rw [hc] at h; cases h; rw [ht, Block.raise_of_clear he]; rfl
  · rw [hc] at h; cases h
  · rw [hc] at h; cases h

/-- A command that must wait is held. -/
theorem exec_hold {i : Instr} {s : State} (he : s.blk.err = false) (hc : commandCheck i s.blk = none)
    (hw : commandWaits i s.cfg.outqDepth s.blk = true) : exec i s = .next (s.hold i) := by
  obtain ⟨t, ht⟩ := exec_answers i s
  rcases exec_cases ht with ⟨h, -, -⟩ | ⟨-, e, h, -⟩ | ⟨-, -, -, rfl⟩ | ⟨-, -, h, -⟩
  · rw [he] at h; cases h
  · rw [hc] at h; cases h
  · exact ht
  · rw [hw] at h; cases h

/-- A command changes the block and the port alone. -/
theorem exec_environment {i : Instr} {s t : State} (h : exec i s = .next t) :
    t.cfg = s.cfg ∧ t.hostq = s.hostq ∧ t.turns = s.turns ∧ t.tx = s.tx ∧ t.responses = s.responses := by
  rcases exec_cases h with ⟨-, -, rfl⟩ | ⟨-, e, -, rfl⟩ | ⟨-, -, -, rfl⟩ | ⟨-, -, -, rfl⟩ <;> simp

/-- Only a hold changes the port. -/
theorem exec_port {i : Instr} {s t : State} (h : exec i s = .next t) :
    t.port = s.port ∨ (t = s.hold i ∧ commandWaits i s.cfg.outqDepth s.blk = true) := by
  rcases exec_cases h with ⟨-, -, rfl⟩ | ⟨-, e, -, rfl⟩ | ⟨-, -, hw, rfl⟩ | ⟨-, -, -, rfl⟩
  · exact .inl rfl
  · exact .inl rfl
  · exact .inr ⟨rfl, hw⟩
  · exact .inl rfl

/-- Everything `Perform(w)` can do: discard, reject by the format checks, or run the command. -/
theorem perform_cases {w : Word} {s t : State} (h : perform w s = .next t) :
    (s.blk.err = true ∧ exemptOp (opField w) = false ∧ t = s) ∨
    (∃ e, decode w = .error e ∧ t = s.withBlock (s.blk.raise (errorOfDecode e))) ∨
    (∃ i, decode w = .ok i ∧ exec i s = .next t) := by
  unfold perform at h
  split at h
  · next hd =>
    cases h
    simp only [Bool.and_eq_true, Bool.not_eq_true'] at hd
    exact .inl ⟨hd.1, hd.2, rfl⟩
  · split at h
    · next e hw => cases h; exact .inr (.inl ⟨e, hw, rfl⟩)
    · next i hw => exact .inr (.inr ⟨i, hw, h⟩)

/-- `Perform(w)` always answers a next state. -/
theorem perform_answers (w : Word) (s : State) : ∃ t, perform w s = .next t := by
  unfold perform
  split
  · exact ⟨_, rfl⟩
  · split
    · exact ⟨_, rfl⟩
    · exact exec_answers _ _

end Sys2Proof.Machine
end

