-- ==== Sys2Proof/Laws/Crc.lean ====
section
/-! SUPPORT. The CRC over sequences, and the bytes of a word. -/

namespace Sys2Proof.Machine

@[simp] theorem crcAcc_nil (a : Word) : crcAcc a [] = a := rfl

@[simp] theorem crcAcc_cons (a : Word) (b : Byte) (s : List Byte) : crcAcc a (b :: s) = crcAcc (crcStep a b) s := rfl

/-- The bytes of a word, assembled again (20_memory.md R54, R58). -/
@[simp] theorem wordLE_bytesLE (w : Word) : wordLE (bytesLE w) = w := by
  ext i hi
  interval_cases i <;> simp [wordLE, bytesLE]

@[simp] theorem length_bytesLE (w : Word) : (bytesLE w).length = 4 := rfl

end Sys2Proof.Machine
end

