-- ==== Sys2Proof/Laws/Decode.lean ====
section
/-! SUPPORT. The fields of a packed word, and which values of OP name an opcode. -/

namespace Sys2Proof

@[simp] theorem opField_pack (o : Opcode) (f : BitVec 3) (d : Byte) : opField (pack o f d) = o.bits := by
  ext i hi
  interval_cases i <;> simp [opField, pack]

@[simp] theorem selectorField_pack (o : Opcode) (f : BitVec 3) (d : Byte) : selectorField (pack o f d) = f := by
  ext i hi
  interval_cases i <;> simp [selectorField, pack]

@[simp] theorem dataField_pack (o : Opcode) (f : BitVec 3) (d : Byte) : dataField (pack o f d) = d := by
  ext i hi
  interval_cases i <;> simp [dataField, pack]

@[simp] theorem dirtyField_pack (o : Opcode) (f : BitVec 3) (v : BitVec 1) : dirtyField (pack o f (v.setWidth 8)) = v := by
  ext i hi
  interval_cases i; simp [dirtyField, pack]

/-- Every opcode is listed. -/
theorem Opcode.mem_all (o : Opcode) : o ∈ Opcode.all := by cases o <;> decide

/-- A value of OP names at most one opcode. -/
theorem Opcode.bits_injective {o o' : Opcode} (h : o.bits = o'.bits) : o = o' := by
  cases o <;> cases o' <;> first | rfl | exact absurd h (by decide)

/-- The value of an opcode names it. -/
@[simp] theorem Opcode.ofBits_bits (o : Opcode) : Opcode.ofBits o.bits = some o := by cases o <;> decide

/-- A value that names an opcode is that opcode's. -/
theorem Opcode.bits_of_ofBits {b : BitVec 8} {o : Opcode} (h : Opcode.ofBits b = some o) : o.bits = b := by
  have := List.find?_some h
  simpa using this

/-- A value that names no opcode differs from every opcode's (30_encoding.md R86). -/
theorem Opcode.ofBits_eq_none {b : BitVec 8} : Opcode.ofBits b = none ↔ ∀ o : Opcode, b ≠ o.bits := by
  constructor
  · intro h o e
    rw [e, Opcode.ofBits_bits] at h
    cases h
  · intro h
    cases hb : Opcode.ofBits b with
    | none => rfl
    | some o => exact absurd (Opcode.bits_of_ofBits hb).symm (h o)

/-- Everything the decoder can answer. -/
theorem decode_cases (w : Word) :
    ((∀ o : Opcode, opField w ≠ o.bits) ∧ decode w = .error .illegalOp) ∨
    (∃ o : Opcode, opField w = o.bits ∧ w &&& o.mbz ≠ 0#32 ∧ decode w = .error .reserved) ∨
    (∃ o : Opcode, opField w = o.bits ∧ w &&& o.mbz = 0#32 ∧ decode w = .ok (o.operands w)) := by
  unfold decode
  cases ho : Opcode.ofBits (opField w) with
  | none => exact .inl ⟨Opcode.ofBits_eq_none.1 ho, rfl⟩
  | some o =>
    have hb := (Opcode.bits_of_ofBits ho).symm
    by_cases hm : w &&& o.mbz = 0#32
    · exact .inr (.inr ⟨o, hb, hm, by simp [hm]⟩)
    · exact .inr (.inl ⟨o, hb, hm, by simp [hm]⟩)

/-- The opcode of a command taken from a word is the word's. -/
@[simp] theorem Opcode.opcode_operands (o : Opcode) (w : Word) : (o.operands w).opcode = o := by cases o <;> rfl

/-- A word that decodes carries its command's opcode. -/
theorem opField_of_decode {w : Word} {i : Instr} (h : decode w = .ok i) : opField w = i.opcode.bits := by
  rcases decode_cases w with ⟨-, h'⟩ | ⟨o, -, -, h'⟩ | ⟨o, hb, -, h'⟩
  · rw [h] at h'; cases h'
  · rw [h] at h'; cases h'
  · rw [h] at h'
    cases h'
    simpa using hb

end Sys2Proof
end

