-- ==== Sys2Proof/Laws/Framer.lean ====
section
/-! SUPPORT. The Base64 text of a payload built group by group. -/

namespace Sys2Proof.Machine

@[simp] theorem length_enc3 (b0 b1 b2 : Byte) : (enc3 b0 b1 b2).length = 4 := rfl

@[simp] theorem length_enc2 (b0 b1 : Byte) : (enc2 b0 b1).length = 4 := rfl

@[simp] theorem length_enc1 (b0 : Byte) : (enc1 b0).length = 4 := rfl

@[simp] theorem b64_nil : b64 [] = [] := by rw [b64]

theorem b64_one (b0 : Byte) : b64 [b0] = enc1 b0 := by rw [b64]

theorem b64_two (b0 b1 : Byte) : b64 [b0, b1] = enc2 b0 b1 := by rw [b64]

theorem b64_group (b0 b1 b2 : Byte) (p : List Byte) : b64 (b0 :: b1 :: b2 :: p) = enc3 b0 b1 b2 ++ b64 p := by rw [b64]

/-- The text of complete groups followed by the rest of the payload's. -/
theorem b64_append {g : List Byte} (h : g.length % 3 = 0) (p : List Byte) : b64 (g ++ p) = b64 g ++ b64 p := by
  induction g using b64.induct with
  | case1 => simp
  | case2 b0 => simp at h
  | case3 b0 b1 => simp at h
  | case4 b0 b1 b2 g ih =>
    have h' : g.length % 3 = 0 := by simp only [List.length_cons] at h; omega
    simp [b64_group, ih h']

/-- The tail FRM_CLOSE emits is the text of the pending bytes (42_framer.md R157). -/
theorem Block.b64_pending (b : Block) : b64 b.pending = b.tail := by
  unfold Block.pending Block.tail
  split
  · exact b64_nil
  · exact b64_one _
  · exact b64_two _ _

/-- The bytes FRM_CLOSE emits before the newline. -/
theorem Block.length_tail (b : Block) : b.tail.length + 1 = frmCloseBytes b := by
  unfold Block.tail frmCloseBytes
  split <;> simp [*]

end Sys2Proof.Machine
end

