-- ==== Sys2Proof/Laws/PerInstr.lean ====
section
/-! SUPPORT. Statements made command by command. The family EncodeRow: the word of a command matches its row of the opcode table (30_encoding.md R85). -/

namespace Sys2Proof.Laws.EncodeRow

/-- The word of a command, under its row's mask, is its row's match. -/
def Statement (i : Instr) : Prop := encode i &&& i.opcode.maskBits = i.opcode.matchBits

theorem nop : Statement .nop := by unfold Statement; decide

theorem crcInit : Statement .crcInit := by unfold Statement; decide

theorem crcByte (d : Byte) : Statement (.crcByte d) := by
  change pack .crcByte 0#3 d &&& Opcode.crcByte.maskBits = Opcode.crcByte.matchBits
  ext i hi
  interval_cases i <;> simp [Opcode.mbz, pack, Opcode.bits, Opcode.maskBits, Opcode.matchBits]

theorem recBegin : Statement .recBegin := by unfold Statement; decide

theorem recPut (f : BitVec 3) (d : Byte) : Statement (.recPut f d) := by
  change pack .recPut f d &&& Opcode.recPut.maskBits = Opcode.recPut.matchBits
  ext i hi
  interval_cases i <;> simp [Opcode.mbz, pack, Opcode.bits, Opcode.maskBits, Opcode.matchBits]

theorem recDirty (v : BitVec 1) : Statement (.recDirty v) := by
  change pack .recDirty 0#3 (v.setWidth 8) &&& Opcode.recDirty.maskBits = Opcode.recDirty.matchBits
  ext i hi
  interval_cases i <;> simp [Opcode.mbz, pack, Opcode.bits, Opcode.maskBits, Opcode.matchBits]

theorem recSeal : Statement .recSeal := by unfold Statement; decide

theorem frmOpen : Statement .frmOpen := by unfold Statement; decide

theorem frmByte (d : Byte) : Statement (.frmByte d) := by
  change pack .frmByte 0#3 d &&& Opcode.frmByte.maskBits = Opcode.frmByte.matchBits
  ext i hi
  interval_cases i <;> simp [Opcode.mbz, pack, Opcode.bits, Opcode.maskBits, Opcode.matchBits]

theorem frmClose : Statement .frmClose := by unfold Statement; decide

theorem clrErr : Statement .clrErr := by unfold Statement; decide

end Sys2Proof.Laws.EncodeRow
end

