-- ==== Sys2Proof/Laws/Step.lean ====
section
/-! SUPPORT. What one try of a write, one access and one step can do, each said once. -/

namespace Sys2Proof.Machine

/-- One try of a CMD write: it is performed with the port free and acknowledged if it completes. -/
theorem tryCommand_cases {w : Word} {s t : State} (h : tryCommand w s = .next t) :
    ∃ u, perform w { s with port := .free } = .next u ∧ t = acknowledge u := by
  unfold tryCommand at h
  split at h
  · next u hu => cases h; exact ⟨u, hu, rfl⟩
  · cases h
  · cases h

/-- A try always answers a next state. -/
theorem tryCommand_answers (w : Word) (s : State) : ∃ t, tryCommand w s = .next t := by
  obtain ⟨u, hu⟩ := perform_answers w { s with port := .free }
  exact ⟨acknowledge u, by simp [tryCommand, hu]⟩

/-- Everything a try of a CMD write can do to the block: nothing (discarded or held), a rejection, or a command's effect. -/
theorem tryCommand_block {w : Word} {s t : State} (h : tryCommand w s = .next t) :
    t.cfg = s.cfg ∧ t.tx = s.tx ∧
    (t.blk = s.blk ∨ (∃ e, t.blk = s.blk.raise e) ∨
      ∃ i, decode w = .ok i ∧ commandCheck i s.blk = none ∧ commandWaits i s.cfg.outqDepth s.blk = false ∧
        (s.blk.err = false ∨ exemptOp i.opcode.bits = true) ∧ t.blk = commandEffect i s.blk) := by
  obtain ⟨u, hu, rfl⟩ := tryCommand_cases h
  simp only [acknowledge_cfg, acknowledge_tx, acknowledge_blk]
  rcases perform_cases hu with ⟨-, -, rfl⟩ | ⟨e, -, rfl⟩ | ⟨i, hd, hi⟩
  · exact ⟨rfl, rfl, .inl rfl⟩
  · exact ⟨rfl, rfl, .inr (.inl ⟨_, rfl⟩)⟩
  · rcases exec_cases hi with ⟨-, -, rfl⟩ | ⟨-, e, -, rfl⟩ | ⟨-, -, -, rfl⟩ | ⟨hx, hc, hw, rfl⟩
    · exact ⟨rfl, rfl, .inl rfl⟩
    · exact ⟨rfl, rfl, .inr (.inl ⟨_, rfl⟩)⟩
    · exact ⟨rfl, rfl, .inl rfl⟩
    · exact ⟨rfl, rfl, .inr (.inr ⟨i, hd, hc, hw, hx, rfl⟩)⟩

/-- Everything an access to the window can do. -/
theorem hostAccess_cases {a : Access} {s t : State} (h : hostAccess a s = .next t) :
    (∃ width addr off, a = .read width addr ∧ windowOffset s.cfg addr = some off ∧ t = busRead width off s) ∨
    (∃ addr v, a = .write .w32 addr v ∧ windowOffset s.cfg addr = some cmdOffset ∧ tryCommand v s = .next t) ∨
    (∃ addr v, a = .write .w32 addr v ∧ windowOffset s.cfg addr = some frmMetaOffset ∧
      t = (s.withBlock (s.blk.setMeta v)).respond (writeResponse .okay)) ∨
    (∃ width addr v off, a = .write width addr v ∧ windowOffset s.cfg addr = some off ∧
      ¬(width = .w32 ∧ (off = cmdOffset ∨ off = frmMetaOffset)) ∧ t = s.respond (writeResponse .error)) := by
  cases a with
  | read width addr =>
    simp only [hostAccess] at h
    split at h
    · cases h
    · next off ho => cases h; exact .inl ⟨width, addr, off, rfl, ho, rfl⟩
  | write width addr v =>
    simp only [hostAccess] at h
    split at h
    · cases h
    · next off ho =>
      unfold busWrite at h
      split at h
      · next hc => obtain ⟨rfl, rfl⟩ := hc; exact .inr (.inl ⟨addr, v, rfl, ho, h⟩)
      · next hc =>
        split at h
        · next hm => obtain ⟨rfl, rfl⟩ := hm; cases h; exact .inr (.inr (.inl ⟨addr, v, rfl, ho, rfl⟩))
        · next hm =>
          cases h
          refine .inr (.inr (.inr ⟨width, addr, v, off, rfl, ho, ?_, rfl⟩))
          rintro ⟨hw, ho | ho⟩
          · exact hc ⟨hw, ho⟩
          · exact hm ⟨hw, ho⟩

/-- Everything one step can do: reset; the next try of a pending write, which uses up a host's turn and no other; the sink's turn; a host's turn that waits or has nothing to
do; or the host's next access. -/
theorem step_cases {s t : State} (h : step s = .next t) :
    (∃ ts, nextTurn s.turns = (.reset, ts) ∧ t = { resetStep s with turns := ts }) ∨
    (∃ x ts w, nextTurn s.turns = (x, ts) ∧ x ≠ .reset ∧ s.port = .retry w ∧
      tryCommand w { s with turns := if x = .host then ts else s.turns } = .next t) ∨
    (∃ ts, nextTurn s.turns = (.sink, ts) ∧ (∀ w, s.port ≠ .retry w) ∧ t = sinkTake { s with turns := ts }) ∨
    (∃ ts, nextTurn s.turns = (.host, ts) ∧ ((∃ w, s.port = .held w) ∨ (s.port = .free ∧ s.hostq = [])) ∧
      t = { s with turns := ts }) ∨
    (∃ ts a q, nextTurn s.turns = (.host, ts) ∧ s.port = .free ∧ s.hostq = a :: q ∧
      hostAccess a { s with turns := ts, hostq := q } = .next t) := by
  unfold step nextStep at h
  split at h
  · next ts hn => cases h; exact .inl ⟨ts, hn, rfl⟩
  · next ts hn =>
    split at h
    · next w hp => exact .inr (.inl ⟨.sink, ts, w, hn, by decide, hp, by simpa using h⟩)
    · next w hp => cases h; exact .inr (.inr (.inl ⟨ts, hn, by simp [hp], rfl⟩))
    · next hp => cases h; exact .inr (.inr (.inl ⟨ts, hn, by simp [hp], rfl⟩))
  · next ts hn =>
    split at h
    · next w hp => exact .inr (.inl ⟨.host, ts, w, hn, by decide, hp, by simpa using h⟩)
    · next w hp =>
      simp only [hostTurn, hp] at h
      cases h
      exact .inr (.inr (.inr (.inl ⟨ts, hn, .inl ⟨w, hp⟩, by rw [hp]⟩)))
    · next hp =>
      simp only [hostTurn, hp] at h
      split at h
      · next hq => cases h; exact .inr (.inr (.inr (.inl ⟨ts, hn, .inr ⟨hp, hq⟩, by rw [hp]⟩)))
      · next a q hq => exact .inr (.inr (.inr (.inr ⟨ts, a, q, hn, hp, hq, by rw [hp]; exact h⟩)))

/-- Everything one step can do to the block and to TX: reset, nothing, a rejection, a write of FRM_META, a take, or a command's
effect; the parameters never change. -/
theorem step_block {s t : State} (h : step s = .next t) :
    t.cfg = s.cfg ∧
    ((resetsNext s = true ∧ t.tx = s.tx ∧ t.blk = Block.reset) ∨
      (t.tx = s.tx ∧ t.blk = s.blk) ∨
      (t.tx = s.tx ∧ ∃ e, t.blk = s.blk.raise e) ∨
      (t.tx = s.tx ∧ ∃ v, t.blk = s.blk.setMeta v) ∨
      (∃ b q, s.blk.outq = b :: q ∧ t.blk = { s.blk with outq := q } ∧ t.tx = s.tx ++ [b]) ∨
      (t.tx = s.tx ∧ ∃ w i, triedWord s = some w ∧ decode w = .ok i ∧ commandCheck i s.blk = none ∧
        commandWaits i s.cfg.outqDepth s.blk = false ∧ (s.blk.err = false ∨ exemptOp i.opcode.bits = true) ∧
        t.blk = commandEffect i s.blk)) := by
  rcases step_cases h with ⟨ts, hn, rfl⟩ | ⟨x, ts, w, hn, hx, hp, h⟩ | ⟨ts, -, -, rfl⟩ | ⟨ts, -, -, rfl⟩ |
    ⟨ts, a, q, hn, hp, hq, h⟩
  · exact ⟨rfl, .inl ⟨by simp [resetsNext, hn], rfl, rfl⟩⟩
  · have ht : triedWord s = some w := by cases x <;> simp_all [triedWord]
    obtain ⟨h1, h2, h3 | ⟨e, h3⟩ | ⟨i, h3⟩⟩ := tryCommand_block h
    · exact ⟨h1, .inr (.inl ⟨h2, h3⟩)⟩
    · exact ⟨h1, .inr (.inr (.inl ⟨h2, e, h3⟩))⟩
    · exact ⟨h1, .inr (.inr (.inr (.inr (.inr ⟨h2, w, i, ht, h3⟩))))⟩
  · refine ⟨by simp, ?_⟩
    unfold sinkTake
    cases ho : s.blk.outq with
    | nil => simp
    | cons b q => exact .inr (.inr (.inr (.inr (.inl ⟨b, q, rfl, by simp⟩))))
  · exact ⟨rfl, .inr (.inl ⟨rfl, rfl⟩)⟩
  · rcases hostAccess_cases h with ⟨_, _, _, -, -, rfl⟩ | ⟨addr, v, rfl, ho, h⟩ | ⟨_, v, -, -, rfl⟩ | ⟨_, _, _, _, -, -, -, rfl⟩
    · exact ⟨rfl, .inr (.inl ⟨rfl, rfl⟩)⟩
    · have ht : triedWord s = some v := by
        simp [triedWord, nextAccess, hn, hp, hq, Access.command?, show windowOffset s.cfg addr = some cmdOffset from ho]
      obtain ⟨h1, h2, h3 | ⟨e, h3⟩ | ⟨i, h3⟩⟩ := tryCommand_block h
      · exact ⟨h1, .inr (.inl ⟨h2, h3⟩)⟩
      · exact ⟨h1, .inr (.inr (.inl ⟨h2, e, h3⟩))⟩
      · exact ⟨h1, .inr (.inr (.inr (.inr (.inr ⟨h2, v, i, ht, h3⟩))))⟩
    · exact ⟨rfl, .inr (.inr (.inr (.inl ⟨rfl, v, rfl⟩)))⟩
    · exact ⟨rfl, .inr (.inl ⟨rfl, rfl⟩)⟩

/-- A run whose first step answers a next state goes on from there. -/
theorem run_succ_of_step {s t : State} (h : step s = .next t) (k : Nat) :
    Host.Core.run Sys2Proof.core (k + 1) s = Host.Core.run Sys2Proof.core k t := by
  have h : Sys2Proof.core.step s = .next t := h
  simp only [Host.Core.run, h]

/-- Where there is a next access, the turn is the host's and the access stands first in its list. -/
theorem nextAccess_head {s : State} {a : Access} (hp : s.port = .free) (hn : nextAccess s = some a) :
    (nextTurn s.turns).1 = .host ∧ s.hostq = a :: s.hostq.tail := by
  unfold nextAccess at hn
  rcases hx : nextTurn s.turns with ⟨x, ts⟩
  cases x <;> simp [hx, hp] at hn
  cases h : s.hostq <;> simp_all

end Sys2Proof.Machine
end

