-- ==== Sys2Proof/Tests/Slice0.lean ====
section
/-! SUPPORT. The model's own tests. Expected values are those of spec/95_test_vectors.md, of the tables of the file each comment names, or of words written
out bit by bit from 30_encoding.md R81 and R85. After them, for every statement with hypotheses, states and operands that meet them. -/

namespace Sys2Proof.Tests

open Sys2Proof.Machine

/-! ### Small states -/

/-- The reset machine with another block. -/
def onBlock (b : Block) : State := { State.reset with blk := b }

/-- REC_BEGIN from reset (41_record.md R126). -/
def building : Block := recBeginEffect Block.reset

/-- REC_BEGIN, REC_SEAL. -/
def finished : Block := { building with rstate := .sealed, record := building.record.writeBytes 67 [0x8D#8, 0xEF#8, 0x02#8, 0xD2#8] }

/-- FRM_OPEN from reset with its `$` taken, and `n` bytes of 0x41 still queued. -/
def framing (g : Fin 3) (n : Nat) : Block := { Block.reset with fopen := true, gcnt := g, outq := List.replicate n 0x41#8 }

/-- ILLEGAL_OP latched. -/
def latched : Block := { Block.reset with err := true, ecode := 1#4 }

/-- The host's next access is the CMD write of `w`. -/
def commanded (b : Block) (w : Nat) : State := (onBlock b).withFetchWord 32 w

/-- The next state of an outcome. -/
def next? : Out → Option State
  | .next t => some t
  | .fault _ => none
  | .refused _ => none

/-- The next state, where there is one. -/
def after (o : Out) : State := (next? o).getD State.reset

theorem next_after {o : Out} (h : (next? o).isSome = true) : o = .next (after o) := by
  cases o <;> simp [next?, after] at h ⊢

/-! ### WellFormed (30_encoding.md R83) -/

theorem test_selector_past_time_is_refused : Instr.wellFormed (.recPut 4#3 0x41#8) = false := by decide

theorem test_selector_seven_is_refused : Instr.wellFormed (.recPut 7#3 0x41#8) = false := by decide

theorem test_selectors_of_string_fields_are_accepted :
    ∀ f : TextField, Instr.wellFormed (.recPut f.selector 0x41#8) = true := by
  intro f; cases f <;> decide

/-! ### Decoding, words written out from R81 and R85: OP, RA, F, RB, D -/

theorem test_decode_nop : decode 0b00000000_00000_000_00000000_00000000#32 = .ok .nop := by rfl
theorem test_decode_crcInit : decode 0b00000001_00000_000_00000000_00000000#32 = .ok .crcInit := by rfl
theorem test_decode_crcByte : decode 0b00000010_00000_000_00000000_10110001#32 = .ok (.crcByte 0xB1#8) := by rfl
theorem test_decode_recBegin : decode 0b00010000_00000_000_00000000_00000000#32 = .ok .recBegin := by rfl
theorem test_decode_recPut : decode 0b00010001_00000_011_00000000_00110010#32 = .ok (.recPut 3#3 0x32#8) := by rfl
theorem test_decode_recPut_no_field : decode 0b00010001_00000_101_00000000_00000000#32 = .ok (.recPut 5#3 0#8) := by rfl
theorem test_decode_recDirty : decode 0b00010010_00000_000_00000000_00000001#32 = .ok (.recDirty 1#1) := by rfl
theorem test_decode_recSeal : decode 0b00010011_00000_000_00000000_00000000#32 = .ok .recSeal := by rfl
theorem test_decode_frmOpen : decode 0b00100000_00000_000_00000000_00000000#32 = .ok .frmOpen := by rfl
theorem test_decode_frmByte : decode 0b00100001_00000_000_00000000_01000001#32 = .ok (.frmByte 0x41#8) := by rfl
theorem test_decode_frmClose : decode 0b00100010_00000_000_00000000_00000000#32 = .ok .frmClose := by rfl
theorem test_decode_clrErr : decode 0b01111111_00000_000_00000000_00000000#32 = .ok .clrErr := by rfl

/-- V-REC-9, V-REC-11, V-CTL-2, V-CTL-4: reserved bits and an illegal opcode. -/
theorem test_decode_rejects :
    decode 0x12000002#32 = .error .reserved ∧ decode 0x11850000#32 = .error .reserved ∧
    decode 0x00000001#32 = .error .reserved ∧ decode 0x03000000#32 = .error .illegalOp := ⟨rfl, rfl, rfl, rfl⟩

theorem test_decodeTableWord : decodeTableWord 32 0x1101006D = some (.recPut 1#3 0x6D#8) := by decide

/-! ### The commands, one step each -/

/-- V-CTL-1. -/
theorem test_nop : next? (exec .nop State.reset) = some State.reset := by decide

/-- V-CTL-2. -/
theorem test_nop_reserved : (after (perform 0x00000001#32 State.reset)).blk.status = 0x00002100#32 := by decide

/-- V-CTL-7 and V-CTL-6. -/
theorem test_clrErr :
    (after (perform 0x7F000000#32 (onBlock latched))).blk.status = 0#32 ∧
    (after (perform 0x7F000001#32 (onBlock latched))).blk.status = 0x00001100#32 := by decide

/-- V-CRC-7. -/
theorem test_crcInit :
    (after (exec .crcInit (onBlock { Block.reset with acc := 0x12345678#32 }))).blk.acc = 0xFFFFFFFF#32 := by decide

/-- V-CRC-5. -/
theorem test_crcByte : (after (exec (.crcByte 0x31#8) State.reset)).blk.acc = 0x7C231048#32 := by decide +kernel

/-- V-CRC-14, its last byte: the check value of R107. -/
theorem test_crcByte_check_value :
    (after (exec (.crcByte 0x39#8) (onBlock { Block.reset with acc := 0x651F2550#32 }))).blk.crcOut = 0xCBF43926#32 := by
  decide +kernel

/-- V-REC-12. -/
theorem test_recBegin : (after (exec .recBegin (onBlock finished))).blk.status = 0x00000010#32 := by decide

/-- V-REC-10 and V-REC-6: the field is checked before the state. -/
theorem test_recPut_rejects :
    (after (perform 0x11050000#32 State.reset)).blk.status = 0x00003100#32 ∧
    (after (perform 0x11000041#32 State.reset)).blk.status = 0x00004100#32 := by decide

/-- V-REC-3: the 31st character of the branch lands at offset 44, the 32nd is dropped. -/
theorem test_recPut_truncates :
    (after (exec (.recPut 1#3 0x79#8) (onBlock { building with branch := ⟨30, false⟩ }))).blk.record.read 44 = 0x79#8 ∧
    (after (exec (.recPut 1#3 0x79#8) (onBlock { building with branch := ⟨31, false⟩ }))).blk =
      { building with branch := ⟨31, false⟩ } := by decide

/-- V-REC-1: the dirty byte is offset 13, byte 0x8D of the window. -/
theorem test_recDirty :
    (after (exec (.recDirty 1#1) (onBlock building))).blk.readValue .w8 0x8D = some 0x01#32 := by decide

/-- V-REC-9. -/
theorem test_recDirty_reserved : (after (perform 0x12000002#32 State.reset)).blk.status = 0x00002100#32 := by decide

/-- V-REC-1: the record as it stands before REC_SEAL. -/
def vRec1 : Block := { building with
  record := Memory.writeBytes [] 0 ([0x4D#8, 0x45#8, 0x54#8, 0x41#8] ++ [0x31#8, 0x61#8, 0x32#8, 0x62#8, 0x33#8, 0x63#8, 0x34#8, 0x64#8, 0#8]
    ++ [1#8] ++ [0x6D#8, 0x61#8, 0x69#8, 0x6E#8] ++ List.replicate 28 0#8
    ++ [0x4E#8, 0x6F#8, 0x76#8, 0x20#8, 0x31#8, 0x31#8, 0x20#8, 0x32#8, 0x30#8, 0x32#8, 0x36#8, 0#8]
    ++ [0x32#8, 0x30#8, 0x3A#8, 0x33#8, 0x39#8, 0x3A#8, 0x30#8, 0x30#8, 0#8])
  commit := ⟨8, false⟩
  branch := ⟨4, false⟩
  date := ⟨11, false⟩
  time := ⟨8, false⟩ }

/-- V-REC-1: the accumulator, the stored CRC, and the words the window then reads. -/
theorem test_recSeal :
    (fun b => (b.acc, b.record.readBytes 67 4, b.readValue .w32 0x80, b.readValue .w32 0xC4, b.readValue .w16 0xC6, b.status))
        (after (exec .recSeal (onBlock vRec1))).blk =
      (0x1FB2BFA9#32, [0x56#8, 0x40#8, 0x4D#8, 0xE0#8], some 0x4154454D#32, some 0x00E04D40#32, some 0x00E0#32, 0x20#32) := by
  decide +kernel

/-- V-REC-7. -/
theorem test_recSeal_twice : (after (exec .recSeal (onBlock finished))).blk.status = 0x00004120#32 := by decide

/-- V-FRM-23 and V-FRM-20. -/
theorem test_frmOpen :
    (after (exec .frmOpen State.reset)).blk.status = 0x00010001#32 ∧
    (after (exec .frmOpen (after (exec .frmOpen State.reset)))).blk.status = 0x00015101#32 := by decide

/-- P3 step 4. -/
theorem test_frmByte_third :
    (after (exec (.frmByte 0x34#8) (onBlock { Block.reset with
      fopen := true, gcnt := 2, gbuf0 := 0x78#8, gbuf1 := 0x56#8, outq := [0x24#8] }))).blk.outq =
      [0x24#8, 0x65#8, 0x46#8, 0x59#8, 0x30#8] := by decide

/-- V-FRM-21. -/
theorem test_frmByte_no_frame : (after (exec (.frmByte 0x41#8) State.reset)).blk.status = 0x00005100#32 := by decide

/-- P3 steps 5 to 7: FRM_CLOSE with five bytes queued, of the eight there is room for, is held. -/
theorem test_frmClose_held :
    (after (exec .frmClose (onBlock (framing 2 5)))).port = .held 0x22000000#32 ∧
    (after (exec .frmClose (onBlock (framing 2 3)))).port = .free := by decide

/-- S2: the payload 0xFF ends with `/w==` and a newline. -/
theorem test_frmClose_padding :
    (after (exec .frmClose (onBlock { framing 1 0 with gbuf0 := 0xFF#8 }))).blk.outq =
      [0x2F#8, 0x77#8, 0x3D#8, 0x3D#8, 0x0A#8] := by decide

/-- V-FRM-12, V-FRM-15. -/
theorem test_frame :
    frame [0xFB#8, 0xFF#8] = [0x24#8, 0x2B#8, 0x2F#8, 0x38#8, 0x3D#8, 0x0A#8] ∧
    frame [0x66#8, 0x6F#8, 0x6F#8, 0x62#8] =
      [0x24#8, 0x5A#8, 0x6D#8, 0x39#8, 0x76#8, 0x59#8, 0x67#8, 0x3D#8, 0x3D#8, 0x0A#8] := by decide

/-- V-CTL-5. -/
theorem test_discarded : next? (perform 0x22000000#32 (onBlock latched)) = some (onBlock latched) := by decide

/-! ### Bus, agents, text -/

/-- V-BUS-3, V-BUS-6, V-BUS-9. -/
theorem test_reads :
    Block.reset.readValue .w32 0x006 = none ∧ Block.reset.readValue .w16 0x081 = none ∧
    Block.reset.readValue .w32 0x008 = some 0xFFFFFFFF#32 ∧ Block.reset.readValue .w32 0x0C4 = some 0#32 := by decide

/-- V-BUS-4: an ERROR response, and nothing else. -/
theorem test_write_error :
    next? (hostAccess (.write .w32 0x008 0x12345678#32) State.reset) =
      some { State.reset with responses := [⟨.error, none⟩] } := by decide

/-- V-BUS-8. -/
theorem test_meta : (after (hostAccess (.write .w32 0x010 0xDEADBEEF#32) State.reset)).blk.readValue .w32 0x010 = some 0xDEADBEEF#32 := by
  decide

/-- The first command after reset is the one put there. -/
theorem test_first_command : (after (step (State.reset.withFetchWord 32 0x10000000))).blk = building := by decide

/-- P6: reset in the middle of a frame loses the queue and the frame, not the bytes taken. -/
theorem test_reset_step :
    next? (step { onBlock (framing 1 2) with turns := [.reset], tx := [0x24#8, 0x41#8, 0x41#8] }) =
      some { State.reset with tx := [0x24#8, 0x41#8, 0x41#8] } := by decide

/-- R209: the sink takes, the due try completes FRM_OPEN with OKAY, and reset comes right after it, the host's next access still to come. -/
theorem test_reset_after_try :
    next? (Host.Core.run Sys2Proof.core 3 { onBlock { Block.reset with outq := [0x0A#8] } with
      port := .held 0x20000000#32, turns := [.sink, .host, .reset], hostq := [.read .w32 0x004] }) =
      some { State.reset with tx := [0x0A#8], responses := [⟨.okay, none⟩], hostq := [.read .w32 0x004] } := by decide

/-- P6: the receiver discards `$AA` at the second `$`. -/
theorem test_receive :
    receive [0x24#8, 0x41#8, 0x41#8, 0x24#8, 0x2F#8, 0x77#8, 0x3D#8, 0x3D#8, 0x0A#8] = [[0x2F#8, 0x77#8, 0x3D#8, 0x3D#8]] := by
  decide

/-- P5's second line, cut short. -/
theorem test_parse_put :
    parseLine "REC.PUT branch, 'm' ; 1101006D".toList = some (some (.command (.recPut 1#3 0x6D#8))) := by decide +kernel

/-- R89: a byte is 0..255. -/
theorem test_parse_byte_range :
    parseLine "CRC.BYTE 256".toList = none ∧ parseLine "CRC.BYTE 0xff".toList = some (some (.command (.crcByte 0xFF#8))) := by
  decide +kernel

/-- P2: a read line, its host register ignored (log entry 13). -/
theorem test_parse_read : parseLine "LD.REC32  0x44, r2".toList = some (some (.ldRec .w32 0x44)) := by decide +kernel

/-! ### Witnesses: for every statement with hypotheses, states and operands that meet them -/

theorem witness_DecodedWordIsItsEncoding : decode 0x11070000#32 = .ok (.recPut 7#3 0#8) := by rfl

/-- The ends of the four ranges of R86, and nothing just outside them. -/
theorem witness_IllegalOpcodesAreRejected :
    State.reset.blk.err = false ∧
    (∀ b ∈ [0x03#8, 0x0F#8], 0x03#8 ≤ opField (b.setWidth 32 <<< 24) ∧ opField (b.setWidth 32 <<< 24) ≤ 0x0F#8) ∧
    (∀ b ∈ [0x14#8, 0x1F#8], 0x14#8 ≤ opField (b.setWidth 32 <<< 24) ∧ opField (b.setWidth 32 <<< 24) ≤ 0x1F#8) ∧
    (∀ b ∈ [0x23#8, 0x7E#8], 0x23#8 ≤ opField (b.setWidth 32 <<< 24) ∧ opField (b.setWidth 32 <<< 24) ≤ 0x7E#8) ∧
    (∀ b ∈ [0x80#8, 0xFF#8], 0x80#8 ≤ opField (b.setWidth 32 <<< 24)) := by decide

theorem witness_PerformReports_discard : (onBlock latched).blk.err = true ∧ opField 0x13000000#32 ≠ 0x00#8 ∧
    opField 0x13000000#32 ≠ 0x7F#8 := by decide

theorem witness_PerformReports_illegal : State.reset.blk.err = false ∧ ∀ o : Opcode, opField 0xFF000000#32 ≠ o.bits :=
  ⟨by decide, by intro o; cases o <;> decide⟩

/-- Bit 23 of REC_PUT and bit 1 of REC_DIRTY, the least reserved bit of each kind. -/
theorem witness_PerformReports_reserved :
    State.reset.blk.err = false ∧
    opField 0x11850000#32 = Opcode.recPut.bits ∧ 0x11850000#32 &&& Opcode.recPut.mbz ≠ 0#32 ∧
    opField 0x12000002#32 = Opcode.recDirty.bits ∧ 0x12000002#32 &&& Opcode.recDirty.mbz ≠ 0#32 := by decide

/-- The selectors 4 (BAD_FIELD) and 3 (REC_STATE) of REC_PUT from reset. -/
theorem witness_PerformReports_recPut :
    State.reset.blk.err = false ∧ State.reset.blk.rstate ≠ .building ∧
    opField 0x11040041#32 = Opcode.recPut.bits ∧ 0x11040041#32 &&& Opcode.recPut.mbz = 0#32 ∧
    3 < (selectorField 0x11040041#32).toNat ∧
    opField 0x11030041#32 = Opcode.recPut.bits ∧ 0x11030041#32 &&& Opcode.recPut.mbz = 0#32 ∧
    (selectorField 0x11030041#32).toNat ≤ 3 := by decide

theorem witness_PerformReports_record :
    (onBlock finished).blk.err = false ∧ (onBlock finished).blk.rstate ≠ .building ∧
    opField 0x12000001#32 = Opcode.recDirty.bits ∧ 0x12000001#32 &&& Opcode.recDirty.mbz = 0#32 ∧
    opField 0x13000000#32 = Opcode.recSeal.bits ∧ 0x13000000#32 &&& Opcode.recSeal.mbz = 0#32 := by decide

theorem witness_PerformReports_frame :
    (onBlock (framing 0 1)).blk.err = false ∧ (onBlock (framing 0 1)).blk.fopen = true ∧
    opField 0x20000000#32 = Opcode.frmOpen.bits ∧ 0x20000000#32 &&& Opcode.frmOpen.mbz = 0#32 ∧
    State.reset.blk.err = false ∧ State.reset.blk.fopen = false ∧
    opField 0x210000FF#32 = Opcode.frmByte.bits ∧ 0x210000FF#32 &&& Opcode.frmByte.mbz = 0#32 ∧
    opField 0x22000000#32 = Opcode.frmClose.bits ∧ 0x22000000#32 &&& Opcode.frmClose.mbz = 0#32 := by decide

/-- REC_PUT of the last field while a record is being built passes every check. -/
theorem witness_PerformReports_accepted :
    (onBlock building).blk.err = false ∧ (onBlock building).blk.rstate = .building ∧
    opField 0x11030041#32 = Opcode.recPut.bits ∧ 0x11030041#32 &&& Opcode.recPut.mbz = 0#32 ∧
    (selectorField 0x11030041#32).toNat ≤ 3 := by decide

theorem witness_LatchedErrorDiscardsCommands :
    (onBlock latched).blk.err = true ∧
    (opField 0x01000000#32 ≠ 0x00#8 ∧ opField 0x01000000#32 ≠ 0x7F#8) ∧
    (opField 0xFF000000#32 ≠ 0x00#8 ∧ opField 0xFF000000#32 ≠ 0x7F#8) ∧
    (opField 0x00800000#32 = 0x00#8 ∧ 0x00800000#32 &&& 0x00FFFFFF#32 ≠ 0#32) ∧
    (opField 0x7F000001#32 = 0x7F#8 ∧ 0x7F000001#32 &&& 0x00FFFFFF#32 ≠ 0#32) := by decide

theorem witness_NopChangesNothing :
    (State.reset.blk.err = false ∧ (onBlock latched).blk.err = true) ∧
    (opField 0x00000001#32 = 0x00#8 ∧ 0x00000001#32 &&& 0x00FFFFFF#32 ≠ 0#32) ∧
    (opField 0x00800000#32 = 0x00#8 ∧ 0x00800000#32 &&& 0x00FFFFFF#32 ≠ 0#32) := by decide

/-- The word 0 is one that changes nothing; a write is pending while FRM_CLOSE is held. -/
theorem witness_NopChangesNothing_pending :
    (∀ s : State, perform 0x00000000#32 s = .next s) ∧
    { onBlock (framing 2 5) with port := .held 0x22000000#32 : State }.port.word? = some 0x22000000#32 := by
  refine ⟨fun s => ?_, rfl⟩
  simp [perform, show decode 0x00000000#32 = .ok .nop from rfl, exec, execNop,
    show exemptOp (opField 0x00000000#32) = true from by decide]

theorem witness_ClearErrorClearsTheLatchAlone :
    (State.reset.blk.err = false ∧ State.reset.blk.ecode = 0#4 ∧ (onBlock latched).blk.err = true) ∧
    (opField 0x7F000001#32 = 0x7F#8 ∧ 0x7F000001#32 &&& 0x00FFFFFF#32 ≠ 0#32) ∧
    (opField 0x7F800000#32 = 0x7F#8 ∧ 0x7F800000#32 &&& 0x00FFFFFF#32 ≠ 0#32) := by decide

theorem witness_CrcInitRestartsTheAccumulator : State.reset.blk.err = false := by decide

theorem witness_CrcByteFeedsOneByte : (onBlock finished).blk.err = false := by decide

/-- Another record may stand there already. -/
theorem witness_RecBeginStartsAnEmptyRecord : (onBlock finished).blk.err = false ∧ (onBlock finished).blk.rstate = .sealed := by decide

/-- A full field, an ended one, the last place of a field, and the NUL. -/
theorem witness_RecPutAppendsEndsOrDrops :
    ((onBlock building).blk.err = false ∧ (onBlock building).blk.rstate = .building ∧ (onBlock building).blk.record.wf) ∧
    ({ building with commit := ⟨8, false⟩ : Block }.text .commit).len = TextField.commit.capacity ∧
    ({ building with date := ⟨0, true⟩ : Block }.text .date).term = true ∧
    (({ building with branch := ⟨30, false⟩ : Block }.text .branch).term = false ∧
      ({ building with branch := ⟨30, false⟩ : Block }.text .branch).len ≠ TextField.branch.capacity ∧ 0xFF#8 ≠ 0#8) := by decide

theorem witness_RecDirtyStoresTheFlag :
    (onBlock building).blk.err = false ∧ (onBlock building).blk.rstate = .building ∧ (onBlock building).blk.record.wf := by decide

theorem witness_RecSealStoresTheCrc :
    (onBlock vRec1).blk.err = false ∧ (onBlock vRec1).blk.rstate = .building ∧ (onBlock vRec1).blk.record.wf := by decide +kernel

theorem witness_FrmOpenEmitsTheDollar :
    (State.reset.blk.err = false ∧ State.reset.blk.fopen = false ∧ State.reset.blk.outq = []) ∧
    ((onBlock { framing 0 1 with fopen := false }).blk.err = false ∧ (onBlock { framing 0 1 with fopen := false }).blk.fopen = false ∧
      (onBlock { framing 0 1 with fopen := false }).blk.outq ≠ []) := by decide

/-- Four bytes free are enough, three are not. -/
theorem witness_FrmByteCollectsGroups :
    (∀ g : Fin 3, (onBlock (framing g 4)).blk.err = false ∧ (onBlock (framing g 4)).blk.fopen = true ∧ (onBlock (framing g 4)).blk.gcnt = g) ∧
    (onBlock (framing 2 4)).blk.outq.length + 4 ≤ (onBlock (framing 2 4)).cfg.outqDepth ∧
    (onBlock (framing 2 5)).cfg.outqDepth < (onBlock (framing 2 5)).blk.outq.length + 4 := by decide

/-- For each number of pending bytes, just enough room and one byte too few. -/
theorem witness_FrmCloseEndsTheFrame :
    (∀ g : Fin 3, (onBlock (framing g 0)).blk.err = false ∧ (onBlock (framing g 0)).blk.fopen = true ∧ (onBlock (framing g 0)).blk.gcnt = g) ∧
    ((onBlock (framing 0 7)).blk.outq.length + ([] : List Byte).length + 1 ≤ 8 ∧ 8 < (onBlock (framing 0 8)).blk.outq.length + ([] : List Byte).length + 1) ∧
    ((onBlock (framing 1 3)).blk.outq.length + (enc1 0#8).length + 1 ≤ 8 ∧ 8 < (onBlock (framing 1 4)).blk.outq.length + (enc1 0#8).length + 1) ∧
    ((onBlock (framing 2 3)).blk.outq.length + (enc2 0#8 0#8).length + 1 ≤ 8 ∧
      8 < (onBlock (framing 2 4)).blk.outq.length + (enc2 0#8 0#8).length + 1) := by decide

theorem witness_HeldExactlyWhenBlocked :
    ((onBlock (framing 2 5)).port = .free ∧ QueueOk (onBlock (framing 2 5)) ∧ blocked (.frmByte 0#8) 8 (framing 2 5) = true) ∧
    ((onBlock (framing 2 4)).port = .free ∧ QueueOk (onBlock (framing 2 4)) ∧ blocked (.frmByte 0#8) 8 (framing 2 4) = false) := by decide

/-- A command that emits four bytes, and one that is rejected. -/
theorem witness_EmittedBytesMatchTheTable :
    (∃ s t, s.port = .free ∧ exec (.frmByte 0#8) s = .next t ∧ t.port = .free ∧ executes (.frmByte 0#8) s.blk = true ∧
      emitCount (.frmByte 0#8) s.blk = 4) ∧
    (∃ s t, s.port = .free ∧ exec .frmClose s = .next t ∧ t.port = .free ∧ executes .frmClose s.blk = false) :=
  ⟨⟨onBlock (framing 2 4), _, by decide, next_after (by decide), by decide⟩,
    ⟨State.reset, _, by decide, next_after (by decide), by decide⟩⟩

theorem witness_AccWrittenOnlyByCrcCommands :
    ∃ s t, step s = .next t ∧ t.blk.acc ≠ s.blk.acc ∧ triedWord s = some 0x02000031#32 :=
  ⟨commanded Block.reset 0x02000031, _, next_after (by decide), by decide +kernel⟩

theorem witness_RecordWrittenOnlyByRecordCommands :
    (∃ s t, step s = .next t ∧ t.blk.record ≠ s.blk.record) ∧ ∃ s t, step s = .next t ∧ t.blk.text .commit ≠ s.blk.text .commit :=
  ⟨⟨commanded Block.reset 0x10000000, _, next_after (by decide), by decide⟩,
    ⟨commanded building 0x11000041, _, next_after (by decide), by decide⟩⟩

theorem witness_RecordStateMovesByItsLifecycle :
    (∃ s t, step s = .next t ∧ t.blk.rstate = .building ∧ s.blk.rstate = .sealed) ∧
    (∃ s t, step s = .next t ∧ t.blk.rstate = .sealed ∧ s.blk.rstate = .building) ∧
    ∃ s t, step s = .next t ∧ t.blk.rstate = .empty ∧ s.blk.rstate = .building :=
  ⟨⟨commanded finished 0x10000000, _, next_after (by decide), by decide⟩,
    ⟨commanded building 0x13000000, _, next_after (by decide), by decide⟩,
    ⟨{ onBlock building with turns := [.reset] }, _, next_after (by decide), by decide⟩⟩

/-- A REC_PUT to the sealed record is the next command. -/
theorem witness_SealedRecordIsImmutable :
    ∃ s t, step s = .next t ∧ s.blk.rstate = .sealed ∧ resetsNext s = false ∧ triedWord s = some 0x11010041#32 ∧
      ∀ w, triedWord s = some w → decode w ≠ .ok .recBegin :=
  ⟨commanded finished 0x11010041, _, next_after (by decide), by decide, by decide, by decide, by
    intro w h
    have : w = 0x11010041#32 := by
      have h2 : triedWord (commanded finished 0x11010041) = some 0x11010041#32 := by decide
      rw [h2] at h; exact (Option.some.inj h).symm
    subst this; intro h; cases h⟩

theorem witness_FrameStateWrittenOnlyByFramerCommands :
    (∃ s t, step s = .next t ∧ s.blk.fopen = false ∧ t.blk.fopen = true) ∧
    (∃ s t, step s = .next t ∧ s.blk.fopen = true ∧ t.blk.fopen = false) ∧
    ∃ s t, step s = .next t ∧ s.blk.gcnt = 1 ∧ t.blk.gcnt = 2 :=
  ⟨⟨commanded Block.reset 0x20000000, _, next_after (by decide), by decide⟩,
    ⟨commanded (framing 2 0) 0x22000000, _, next_after (by decide), by decide⟩,
    ⟨commanded (framing 1 0) 0x21000000, _, next_after (by decide), by decide⟩⟩

/-- An error of the format checks and one of a state check, CLR_ERR, and steps that keep the latch as it is. -/
theorem witness_ErrorLatchIsSticky :
    (∃ s t, step s = .next t ∧ s.blk.err = false ∧ t.blk.err = true ∧ t.blk.ecode = 1#4) ∧
    (∃ s t, step s = .next t ∧ s.blk.err = false ∧ t.blk.err = true ∧ t.blk.ecode = 4#4) ∧
    (∃ s t, step s = .next t ∧ s.blk.err = true ∧ t.blk.err = false) ∧
    (∃ s t, step s = .next t ∧ s.blk.err = true ∧ t.blk.err = true) ∧
    ∃ s t, step s = .next t ∧ s.blk.err = false ∧ t.blk.err = false :=
  ⟨⟨commanded Block.reset 0xFF000000, _, next_after (by decide), by decide⟩,
    ⟨commanded Block.reset 0x13000000, _, next_after (by decide), by decide⟩,
    ⟨commanded latched 0x7F000000, _, next_after (by decide), by decide⟩,
    ⟨commanded latched 0x13000000, _, next_after (by decide), by decide⟩,
    ⟨commanded Block.reset 0x00000000, _, next_after (by decide), by decide⟩⟩

theorem witness_MetaWrittenOnlyByItsRegister :
    ∃ s t, step s = .next t ∧ t.blk.metaWord ≠ s.blk.metaWord ∧ resetsNext s = false :=
  ⟨{ State.reset with hostq := [.write .w32 0x010 0xDEADBEEF#32] }, _, next_after (by decide), by decide⟩

theorem witness_QueueGrowsByCommandsAndShrinksByTakes :
    (∃ s t, step s = .next t ∧ resetsNext s = false ∧ t.tx = s.tx ++ [0x41#8]) ∧
    ∃ s t, step s = .next t ∧ resetsNext s = false ∧ t.blk.outq = s.blk.outq ++ [0x24#8] :=
  ⟨⟨{ onBlock (framing 0 2) with turns := [.sink] }, _, next_after (by decide), by decide⟩,
    ⟨commanded Block.reset 0x20000000, _, next_after (by decide), by decide⟩⟩

/-- An admitted and a refused access of each kind: the misaligned 16-bit read, the last offset of the record window, a write of it. -/
theorem witness_ErrorResponsesChangeNothing :
    (windowOffset State.reset.cfg 0x081 = some 0x081 ∧ ¬ AdmittedRead .w16 0x081) ∧
    (windowOffset State.reset.cfg 0x0C7 = some 0x0C7 ∧ AdmittedRead .w8 0x0C7 ∧ ¬ AdmittedWrite .w8 0x0C7) ∧
    (windowOffset State.reset.cfg 0x0FF = some 0x0FF ∧ ¬ AdmittedRead .w8 0x0FF) ∧
    (windowOffset State.reset.cfg 0x010 = some 0x010 ∧ AdmittedWrite .w32 0x010 ∧ ¬ AdmittedWrite .w8 0x010) ∧
    (windowOffset State.reset.cfg 0x000 = some 0x000 ∧ AdmittedWrite .w32 0x000 ∧ ¬ AdmittedRead .w32 0x000) := by
  decide

theorem witness_ReadsReturnTheRegisters :
    (0x080 ≤ 0x0C4 ∧ 0x0C4 ≤ 0x0C7 ∧ 0x0C4 % Width.w32.bytes = 0) ∧ 0x0C7 % Width.w8.bytes = 0 ∧ 0x080 % Width.w16.bytes = 0 := by decide

theorem witness_StatusShowsEveryField : Block.reset.outq.length ≤ 255 := by decide

/-- A CMD write that completes, and one that is held. -/
theorem witness_CompletedCommandWritesAreOkay :
    (∃ s u : State, perform 0x20000000#32 { s with port := .free } = .next u ∧ u.port = .free) ∧
    ∃ s u : State, perform 0x20000000#32 { s with port := .free } = .next u ∧ u.port ≠ .free :=
  ⟨⟨State.reset, _, next_after (by decide), by decide⟩,
    ⟨onBlock { framing 0 1 with fopen := false }, _, next_after (by decide), by decide⟩⟩

theorem witness_ResetStepAbandonsAndKeepsTheWire :
    ∃ (s : State) (ts : List Turn), s.turns = Turn.reset :: ts ∧ s.port = .held 0x22000000#32 :=
  ⟨{ onBlock (framing 2 5) with turns := [.reset, .sink], port := .held 0x22000000#32 }, [.sink], rfl, rfl⟩

theorem witness_SinkTakesTheHead :
    (∃ (s : State) (ts : List Turn), s.turns = Turn.sink :: ts ∧ (∀ w, s.port ≠ .retry w) ∧ s.blk.outq = []) ∧
    ∃ (s : State) (ts : List Turn) (b : Byte) (q : List Byte), s.turns = Turn.sink :: ts ∧ (∀ w, s.port ≠ .retry w) ∧ s.blk.outq = b :: q ∧ s.port = .held 0x22000000#32 :=
  ⟨⟨{ State.reset with turns := [.sink] }, [], rfl, nofun, rfl⟩,
    ⟨{ onBlock (framing 2 5) with turns := [.sink], port := .held 0x22000000#32 }, [], _, _, rfl, nofun, rfl, rfl⟩⟩

theorem witness_HeldWriteBlocksThePort :
    (∃ s : State, resetsNext s = false ∧ s.port = .held 0x22000000#32 ∧ (nextTurn s.turns).1 = .host) ∧
    (∃ s : State, resetsNext s = false ∧ s.port = .retry 0x22000000#32 ∧ (nextTurn s.turns).1 = .sink) ∧
    ∃ s : State, resetsNext s = false ∧ s.port = .retry 0x22000000#32 ∧ (nextTurn s.turns).1 = .host :=
  ⟨⟨{ onBlock (framing 2 5) with port := .held 0x22000000#32 }, by decide⟩,
    ⟨{ onBlock (framing 2 4) with port := .retry 0x22000000#32, turns := [.sink] }, by decide⟩,
    ⟨{ onBlock (framing 2 4) with port := .retry 0x22000000#32, turns := [.host, .reset] }, by decide⟩⟩

theorem witness_PendingWriteCompletesOnAnEmptyQueue :
    ∃ s : State, s.cfg.Legal ∧ s.port = .retry 0x22000000#32 ∧ s.blk.outq = [] ∧ resetsNext s = false :=
  ⟨{ onBlock (framing 2 0) with port := .retry 0x22000000#32 }, by decide⟩

/-- FRM_CLOSE held: five bytes are queued and five are needed, of the eight there is room for. -/
theorem held_close_portOk : PortOk { onBlock (framing 2 5) with port := .held 0x22000000#32, turns := List.replicate 5 .sink } := by
  intro w h
  obtain rfl : 0x22000000#32 = w := by simpa [Port.word?] using h
  exact ⟨.frmClose, rfl, by decide, fun _ => by decide⟩

theorem witness_HeldWriteCompletesUnderSinkProgress :
    ∃ s : State, s.cfg.Legal ∧ PortOk s ∧ s.port = .held 0x22000000#32 ∧ s.turns = List.replicate 5 .sink ∧ s.blk.outq.length ≤ 5 :=
  ⟨_, by decide, held_close_portOk, by decide⟩

theorem witness_IdleChangesNothing : State.reset.hostq = [] ∧ State.reset.turns = [] ∧ ∀ w, State.reset.port ≠ .retry w :=
  ⟨rfl, rfl, nofun⟩

theorem witness_StepRunsTheDecodedCommand :
    ∃ s : State, s.port = .free ∧ nextAccess s = some (cmdWrite s.cfg 0x13000000#32) ∧ decode 0x13000000#32 = .ok .recSeal :=
  ⟨commanded building 0x13000000, by decide, by decide, rfl⟩

/-- A read, a write of FRM_META, and the CMD write of a word that does not decode. -/
theorem witness_StepRunsTheDecodedCommand_access :
    ∀ a ∈ [Access.read .w8 0x0C7, .write .w32 0x010 1#32, cmdWrite State.reset.cfg 0xFF000000#32],
      State.reset.port = .free ∧ nextAccess { State.reset with hostq := [a] } = some a := by decide

/-- The first addresses below and above a window at 0x1000, and the last one inside. -/
theorem witness_StepStopsOnlyOutsideTheWindow :
    (let c : Config := ⟨0x1000, 8⟩; (0x0FFF < c.baseAddr) ∧ (c.baseAddr + 0xFF < 0x1100) ∧ ¬ (c.baseAddr + 0xFF < 0x10FF)) ∧
    ∃ s : State, nextAccess s = some (.read .w8 0x100) ∧ step s = .fault .outsideWindow :=
  ⟨by decide, { State.reset with hostq := [.read .w8 0x100] }, by decide, rfl⟩

theorem reset_recordOk : RecordOk Block.reset where
  canonical := by decide
  bounded := by decide
  lengths := by intro f; cases f <;> decide
  emptyRecord := fun _ => ⟨fun _ => rfl, by intro f; cases f <;> rfl⟩
  hasMagic := fun h => absurd rfl h
  stored := fun h => absurd rfl h
  padded := fun h => absurd rfl h
  dirty := fun h => absurd rfl h
  unsealed := fun h => by cases h
  sealedCrc := fun h => by cases h

theorem witness_StepKeepsTheRecord :
    ∃ s t, RecordOk s.blk ∧ step s = .next t ∧ t.blk.rstate = .building :=
  ⟨commanded Block.reset 0x10000000, _, reset_recordOk, next_after (by decide), by decide⟩

theorem witness_StepKeepsTheErrorLatch : ∃ s t, ErrorOk s.blk ∧ step s = .next t ∧ t.blk.err = true :=
  ⟨commanded Block.reset 0xFF000000, _, ⟨by decide, by decide⟩, next_after (by decide), by decide⟩

theorem witness_StepKeepsTheQueueAndGroup :
    ∃ s t, s.cfg.Legal ∧ GroupOk s.blk ∧ QueueOk s ∧ step s = .next t ∧ t.blk.outq.length = s.cfg.outqDepth :=
  ⟨commanded (framing 2 4) 0x21000000, _, by decide, ⟨by decide, by decide, by decide⟩, by decide, next_after (by decide), by decide⟩

/-- A frame is open, `$` taken, four characters queued. -/
theorem witness_StepKeepsOneFrameOnTheWire :
    ∃ s t, WireOk s ∧ step s = .next t ∧ s.blk.fopen = true ∧ s.blk.outq.length = 4 :=
  ⟨{ commanded (framing 0 4) 0x22000000 with tx := [0x24#8] }, _,
    ⟨fun _ => ⟨[0x24#8], [0#8, 0#8, 0#8], ⟨[], rfl⟩, by decide, by decide⟩, fun h => by cases h⟩,
    next_after (by decide), by decide⟩

theorem witness_StepKeepsThePendingWrite : ∃ s t, PortOk s ∧ step s = .next t ∧ s.port = .held 0x22000000#32 :=
  ⟨_, _, held_close_portOk, next_after (by decide), by decide⟩

theorem witness_CrcOverConcatenatedFields : State.reset.blk.err = false := by decide

theorem witness_CrcAlgebra : State.reset.blk.err = false := by decide

theorem witness_SealedRecordsPassTheReader :
    ∃ b : Block, RecordOk b ∧ b.rstate = .sealed ∧ b.rstate ≠ .empty := by
  refine ⟨finished, ⟨by decide, by decide, ?_, (fun h => by cases h), (fun _ => by decide), (fun _ f i h => ?_),
    (fun _ f i _ h => ?_), (fun _ => by decide), (fun h => by cases h), (fun _ => by decide +kernel)⟩, by decide, by decide⟩
  · intro f; cases f <;> decide
  · cases f <;> exact absurd h (Nat.not_lt_zero i)
  · cases f <;> revert i <;> decide

theorem witness_BuildSequenceGivesTheSourceRecord : (onBlock finished).blk.err = false := by decide

/-- Another command and the sink's take come between the framer's commands. -/
theorem witness_StreamingEqualsTheCall :
    ∃ s t, s.port = .free ∧ s.blk.err = false ∧ s.blk.fopen = false ∧
      framerCommands [.perform .frmOpen, .take, .perform .nop, .perform (.frmByte 0xFF#8), .take, .perform .frmClose] = frmSend [0xFF#8] ∧
      runWire [.perform .frmOpen, .take, .perform .nop, .perform (.frmByte 0xFF#8), .take, .perform .frmClose] s = some t :=
  ⟨State.reset, (runWire [.perform .frmOpen, .take, .perform .nop, .perform (.frmByte 0xFF#8), .take, .perform .frmClose]
    State.reset).getD State.reset, by decide⟩

theorem witness_FrameBodiesHoldNoDelimiter : (b64 [0xFF#8])[2]? = some 0x3D#8 ∧ (b64 [0xFF#8])[3]? = some 0x3D#8 := by decide

theorem witness_FramesDetermineTheirPayload : frame [] = frame [] := rfl

/-- `$AA` of P6, and noise before the first frame. -/
theorem witness_ReceiverRecoversFrames :
    dollar ∉ [0x0A#8, 0x41#8] ∧ [0x24#8, 0x41#8, 0x41#8] <+: frame [0#8, 0#8, 0#8] ∧
    [0x24#8, 0x41#8, 0x41#8] ≠ frame [0#8, 0#8, 0#8] := by decide

theorem witness_MetaInfluencesNothingElse :
    ∃ s s' t : State, SameButMeta s s' ∧ step s = .next t ∧ s.blk.metaWord ≠ s'.blk.metaWord :=
  ⟨commanded Block.reset 0x20000000, commanded { Block.reset with metaWord := 1#32 } 0x20000000, _,
    ⟨by decide, by decide, by decide, by decide, by decide, by decide⟩, next_after (by decide), by decide⟩

/-- The read of FRM_META that tells the two apart, a fault of both, and an access that is no read of FRM_META. -/
theorem witness_MetaInfluencesNothingElse_clauses :
    (∃ s s' : State, SameButMeta s s' ∧ (after (step s)).responses ≠ (after (step s')).responses) ∧
    (∃ s s' : State, SameButMeta s s' ∧ step s = .fault .outsideWindow ∧ s.blk.metaWord ≠ s'.blk.metaWord) ∧
    ∃ s s' : State, SameButMeta s s' ∧ s.blk.metaWord ≠ s'.blk.metaWord ∧ nextAccess s = some (.read .w32 0x004) ∧
      windowOffset s.cfg 0x004 ≠ some 0x010 :=
  ⟨⟨{ State.reset with hostq := [.read .w32 0x010] }, { onBlock { Block.reset with metaWord := 1#32 } with hostq := [.read .w32 0x010] },
      ⟨by decide, by decide, by decide, by decide, by decide, by decide⟩, by decide⟩,
    ⟨{ State.reset with hostq := [.read .w32 0x100] }, { onBlock { Block.reset with metaWord := 1#32 } with hostq := [.read .w32 0x100] },
      ⟨by decide, by decide, by decide, by decide, by decide, by decide⟩, rfl, by decide⟩,
    ⟨{ State.reset with hostq := [.read .w32 0x004] }, { onBlock { Block.reset with metaWord := 1#32 } with hostq := [.read .w32 0x004] },
      ⟨by decide, by decide, by decide, by decide, by decide, by decide⟩, by decide⟩⟩

/-- A held FRM_CLOSE whose try completes after one take, and one that stays held. -/
theorem witness_ResetFallsBeforeOrAfterATry :
    (∃ (s : State) (b : Byte) (q : List Byte), s.port = .held 0x22000000#32 ∧ s.blk.outq = b :: q ∧ s.turns = [.sink, .reset]) ∧
    ∀ n ∈ [4, 5], ∃ (s : State) (b : Byte) (q : List Byte), s.port = .held 0x22000000#32 ∧ s.blk.outq = b :: q ∧
      q.length + 1 = n ∧ s.turns = [.sink, .host, .reset] := by
  refine ⟨⟨{ onBlock (framing 2 5) with port := .held 0x22000000#32, turns := [.sink, .reset] }, _, _, rfl, rfl, rfl⟩, ?_⟩
  intro n hn
  exact ⟨{ onBlock (framing 2 n) with port := .held 0x22000000#32, turns := [.sink, .host, .reset] }, 0x41#8,
    List.replicate (n - 1) 0x41#8, by revert n; decide⟩

end Sys2Proof.Tests
end

section
/-! PROOFS. 10_state.md: which agent changes which part of the block, said once for every step. -/

namespace Sys2Proof.Machine

@[simp] theorem Block.text_raise (b : Block) (e : CmdError) (f : TextField) : (b.raise e).text f = b.text f := by
  cases f <;> simp [Block.text]

@[simp] theorem Block.text_setMeta (b : Block) (v : Word) (f : TextField) : (b.setMeta v).text f = b.text f := by
  cases f <;> rfl

@[simp] theorem Block.text_with_outq (b : Block) (q : List Byte) (f : TextField) :
    Block.text { b with outq := q } f = b.text f := by cases f <;> rfl

@[simp] theorem frmByteEffect_text (d : Byte) (b : Block) (f : TextField) : (frmByteEffect d b).text f = b.text f := by
  cases f <;> simp [Block.text]

/-- Whose doing a step's change of the block is: reset's, a tried command word's, a write's of FRM_META, or that of none of them,
which changes the queue alone. -/
theorem step_by_agent {s t : State} (h : step s = .next t) :
    (resetsNext s = true ∧ t.blk = Block.reset) ∨
    (∃ w u, triedWord s = some w ∧ u.blk = s.blk ∧ tryCommand w u = .next t) ∨
    (∃ addr v, nextAccess s = some (.write .w32 addr v) ∧ windowOffset s.cfg addr = some frmMetaOffset ∧
      t.blk = s.blk.setMeta v) ∨
    (∃ q, t.blk = { s.blk with outq := q }) := by
  rcases step_cases h with ⟨ts, hn, rfl⟩ | ⟨x, ts, w, hn, hx, hp, h⟩ | ⟨ts, -, -, rfl⟩ | ⟨ts, -, -, rfl⟩ |
    ⟨ts, a, q, hn, hp, hq, h⟩
  · exact .inl ⟨by simp [resetsNext, hn], rfl⟩
  · have ht : triedWord s = some w := by cases x <;> simp_all [triedWord]
    exact .inr (.inl ⟨w, { s with turns := if x = .host then ts else s.turns }, ht, rfl, h⟩)
  · refine .inr (.inr (.inr ?_))
    unfold sinkTake
    split
    · exact ⟨s.blk.outq, rfl⟩
    · exact ⟨_, rfl⟩
  · exact .inr (.inr (.inr ⟨s.blk.outq, rfl⟩))
  · have ha : nextAccess s = some a := by simp [nextAccess, hn, hp, hq]
    rcases hostAccess_cases h with ⟨_, _, _, -, -, rfl⟩ | ⟨addr, v, rfl, ho, h⟩ | ⟨addr, v, rfl, ho, rfl⟩ |
      ⟨_, _, _, _, -, -, -, rfl⟩
    · exact .inr (.inr (.inr ⟨s.blk.outq, rfl⟩))
    · have ht : triedWord s = some v := by
        simp [triedWord, hn, hp, ha, Access.command?, show windowOffset s.cfg addr = some cmdOffset from ho]
      exact .inr (.inl ⟨v, { s with turns := ts, hostq := q }, ht, rfl, h⟩)
    · exact .inr (.inr (.inl ⟨addr, v, ha, ho, rfl⟩))
    · exact .inr (.inr (.inr ⟨s.blk.outq, rfl⟩))

/-- A part of the block that no rejection, no write of FRM_META and no take changes. -/
structure CommandOnly {α : Type} (p : Block → α) : Prop where
  raise : ∀ b e, p (b.raise e) = p b
  setMeta : ∀ b v, p (b.setMeta v) = p b
  take : ∀ b q, p { b with outq := q } = p b

/-- Such a part changes only by reset, and by the effect of a command that passes its check. -/
theorem CommandOnly.changed {α : Type} {p : Block → α} (hp : CommandOnly p) {s t : State} (h : step s = .next t)
    (hne : p t.blk ≠ p s.blk) :
    (resetsNext s = true ∧ t.blk = Block.reset) ∨
    ∃ w i, triedWord s = some w ∧ decode w = .ok i ∧ commandCheck i s.blk = none ∧ t.blk = commandEffect i s.blk := by
  rcases (step_block h).2 with ⟨hr, -, hb⟩ | ⟨-, hb⟩ | ⟨-, e, hb⟩ | ⟨-, v, hb⟩ | ⟨b, q, -, hb, -⟩ |
    ⟨-, w, i, hw, hd, hc, -, -, hb⟩
  · exact .inl ⟨hr, hb⟩
  · exact absurd (congrArg p hb) hne
  · exact absurd (by rw [hb, hp.raise]) hne
  · exact absurd (by rw [hb, hp.setMeta]) hne
  · exact absurd (by rw [hb, hp.take]) hne
  · exact .inr ⟨w, i, hw, hd, hc, hb⟩

/-- An invariant `P` of such a part holds after every step if it holds at reset and every command's effect keeps it. -/
theorem CommandOnly.step_keeps {α : Type} {p : Block → α} (hp : CommandOnly p) {P : Block → Prop}
    (hcongr : ∀ {b b'}, p b' = p b → P b → P b') (hreset : P Block.reset)
    (heffect : ∀ {i b}, P b → commandCheck i b = none → P (commandEffect i b)) {s t : State} (hs : P s.blk)
    (h : step s = .next t) : P t.blk := by
  by_cases he : p t.blk = p s.blk
  · exact hcongr he hs
  · rcases hp.changed h he with ⟨-, hb⟩ | ⟨w, i, -, -, hc, hb⟩
    · rwa [hb]
    · rw [hb]; exact heffect hs hc

/-! ### The parts of the block -/

theorem commandOnly_acc : CommandOnly Block.acc := ⟨Block.raise_acc, Block.setMeta_acc, fun _ _ => rfl⟩

theorem commandOnly_rstate : CommandOnly Block.rstate := ⟨Block.raise_rstate, Block.setMeta_rstate, fun _ _ => rfl⟩

theorem commandOnly_fopen : CommandOnly Block.fopen := ⟨Block.raise_fopen, Block.setMeta_fopen, fun _ _ => rfl⟩

theorem commandOnly_gcnt : CommandOnly Block.gcnt := ⟨Block.raise_gcnt, Block.setMeta_gcnt, fun _ _ => rfl⟩

/-- The record assembler's state: `REC`, `RSTATE`, and each field's `LEN_f` and `TERM_f` (R28, R36, R37). -/
def Block.recordPart (b : Block) : Memory × RState × (TextField → TextState) := (b.record, b.rstate, b.text)

theorem Block.recordPart_eq_iff {b b' : Block} :
    b'.recordPart = b.recordPart ↔ b'.record = b.record ∧ b'.rstate = b.rstate ∧ ∀ f, b'.text f = b.text f := by
  simp [Block.recordPart, funext_iff]

theorem commandOnly_recordPart : CommandOnly Block.recordPart where
  raise b e := Block.recordPart_eq_iff.2 ⟨b.raise_record e, b.raise_rstate e, b.text_raise e⟩
  setMeta _ _ := rfl
  take _ _ := rfl

/-- The framer's state beside the queue: FOPEN, GCNT and the two buffers (R26, R27, R38). -/
def Block.groupPart (b : Block) : Bool × Fin 3 × Byte × Byte := (b.fopen, b.gcnt, b.gbuf0, b.gbuf1)

theorem Block.groupPart_eq_iff {b b' : Block} :
    b'.groupPart = b.groupPart ↔ b'.fopen = b.fopen ∧ b'.gcnt = b.gcnt ∧ b'.gbuf0 = b.gbuf0 ∧ b'.gbuf1 = b.gbuf1 := by
  simp [Block.groupPart]

theorem commandOnly_groupPart : CommandOnly Block.groupPart where
  raise b e := Block.groupPart_eq_iff.2 ⟨b.raise_fopen e, b.raise_gcnt e, b.raise_gbuf0 e, b.raise_gbuf1 e⟩
  setMeta _ _ := rfl
  take _ _ := rfl

/-! ### Which commands change which part -/

/-- R35: no command writes META. -/
@[simp] theorem commandEffect_metaWord (i : Instr) (b : Block) : (commandEffect i b).metaWord = b.metaWord := by
  cases i with
  | recPut f d => exact recPutEffect_metaWord f d b
  | frmByte d => exact frmByteEffect_metaWord d b
  | _ => rfl

/-- R33: the commands that write ACC. -/
theorem crcCommand_of_acc_ne {i : Instr} {b : Block} (h : (commandEffect i b).acc ≠ b.acc) :
    i = .crcInit ∨ (∃ d, i = .crcByte d) ∨ i = .recSeal := by
  cases i with
  | crcInit => exact .inl rfl
  | crcByte d => exact .inr (.inl ⟨d, rfl⟩)
  | recSeal => exact .inr (.inr rfl)
  | recPut f d => exact absurd (recPutEffect_acc f d b) h
  | frmByte d => exact absurd (frmByteEffect_acc d b) h
  | _ => exact absurd rfl h

/-- R28, R36, R37: the commands that write the record assembler's state. -/
theorem recordCommand_of_recordPart_ne {i : Instr} {b : Block} (h : (commandEffect i b).recordPart ≠ b.recordPart) :
    i = .recBegin ∨ (∃ f d, i = .recPut f d) ∨ (∃ v, i = .recDirty v) ∨ i = .recSeal := by
  cases i with
  | recBegin => exact .inl rfl
  | recPut f d => exact .inr (.inl ⟨f, d, rfl⟩)
  | recDirty v => exact .inr (.inr (.inl ⟨v, rfl⟩))
  | recSeal => exact .inr (.inr (.inr rfl))
  | frmByte d =>
    exact absurd (Block.recordPart_eq_iff.2 ⟨frmByteEffect_record d b, frmByteEffect_rstate d b, frmByteEffect_text d b⟩) h
  | _ => exact absurd rfl h

/-- R28: the commands that move RSTATE. -/
theorem lifecycle_of_rstate_ne {i : Instr} {b : Block} (h : (commandEffect i b).rstate ≠ b.rstate) :
    i = .recBegin ∨ i = .recSeal := by
  cases i with
  | recBegin => exact .inl rfl
  | recSeal => exact .inr rfl
  | recPut f d => exact absurd (recPutEffect_rstate f d b) h
  | frmByte d => exact absurd (frmByteEffect_rstate d b) h
  | _ => exact absurd rfl h

/-- The commands of the framer. -/
theorem framerCommand_cases {i : Instr} (h : framerCommand i = true) :
    i = .frmOpen ∨ (∃ d, i = .frmByte d) ∨ i = .frmClose := by
  cases i with
  | frmOpen => exact .inl rfl
  | frmByte d => exact .inr (.inl ⟨d, rfl⟩)
  | frmClose => exact .inr (.inr rfl)
  | _ => cases h

/-- R26, R27, R38, R39: the other commands leave the framer's state and the queue alone. -/
theorem commandEffect_of_not_framer {i : Instr} (h : framerCommand i = false) (b : Block) :
    (commandEffect i b).groupPart = b.groupPart ∧ (commandEffect i b).outq = b.outq := by
  cases i with
  | recPut f d => simp [commandEffect, Block.groupPart]
  | frmOpen => cases h
  | frmByte d => cases h
  | frmClose => cases h
  | _ => exact ⟨rfl, rfl⟩

/-- A command that changes FOPEN or GCNT is one of the framer. -/
theorem framerCommand_of_groupPart_ne {i : Instr} {b : Block} (h : (commandEffect i b).groupPart ≠ b.groupPart) :
    framerCommand i = true := by
  by_contra hf
  exact h (commandEffect_of_not_framer (by simpa using hf) b).1

/-! ### The safety statements -/

/-- Settles O21: a changed ACC was changed by reset or by a command's effect, and three commands' effects write it. -/
theorem accWrittenOnlyByCrcCommands : Obligations.AccWrittenOnlyByCrcCommands := by
  intro s t h hne
  rcases commandOnly_acc.changed h hne with ⟨hr, -⟩ | ⟨w, i, hw, hd, -, hb⟩
  · exact .inl hr
  · exact .inr ⟨w, i, hw, hd, crcCommand_of_acc_ne (hb ▸ hne)⟩

/-- Settles O22: the same for the record assembler's state as one part of the block. -/
theorem recordWrittenOnlyByRecordCommands : Obligations.RecordWrittenOnlyByRecordCommands := by
  intro s t h hne
  have hne : t.blk.recordPart ≠ s.blk.recordPart := by
    intro he
    obtain ⟨hrec, -, htext⟩ := Block.recordPart_eq_iff.1 he
    rcases hne with hne | ⟨f, hne⟩
    · exact hne hrec
    · exact hne (htext f)
  rcases commandOnly_recordPart.changed h hne with ⟨hr, -⟩ | ⟨w, i, hw, hd, -, hb⟩
  · exact .inl hr
  · exact .inr ⟨w, i, hw, hd, recordCommand_of_recordPart_ne (hb ▸ hne)⟩

/-- Settles O23: only REC_BEGIN and REC_SEAL move RSTATE, and REC_SEAL's check needs it BUILDING. -/
theorem recordStateMovesByItsLifecycle : Obligations.RecordStateMovesByItsLifecycle := by
  intro s t h hne
  rcases commandOnly_rstate.changed h hne with ⟨hr, hb⟩ | ⟨w, i, hw, hd, hc, hb⟩
  · exact .inl ⟨hr, by rw [hb]; rfl⟩
  · rcases lifecycle_of_rstate_ne (hb ▸ hne) with rfl | rfl
    · exact .inr (.inl ⟨w, hw, hd, by rw [hb]; rfl⟩)
    · have hbuilding : s.blk.rstate = .building := by simpa [commandCheck, needsBuilding] using hc
      exact .inr (.inr ⟨w, hw, hd, hbuilding, by rw [hb]; rfl⟩)

/-- Settles O27: no command writes META, so a change is reset's or the write's of its register. -/
theorem metaWrittenOnlyByItsRegister : Obligations.MetaWrittenOnlyByItsRegister := by
  intro s t h hne
  rcases step_by_agent h with ⟨hr, -⟩ | ⟨w, u, -, hu, ht⟩ | ⟨addr, v, ha, ho, hb⟩ | ⟨q, hb⟩
  · exact .inl hr
  · rw [← hu] at hne
    obtain ⟨-, -, hb | ⟨e, hb⟩ | ⟨i, -, -, -, -, hb⟩⟩ := tryCommand_block ht
    all_goals exact absurd (by simp [hb]) hne
  · exact .inr ⟨addr, v, ha, ho, by rw [hb]; rfl⟩
  · exact absurd (by rw [hb]) hne

end Sys2Proof.Machine
end

section
/-! PROOFS. 10_state.md R26, R27, R29, R30, R32: the frame's state, the error latch, and STATUS. -/

namespace Sys2Proof.Machine

/-! ### FOPEN and GCNT -/

/-- R26: the commands that change FOPEN. -/
theorem commandEffect_fopen_of_ne {i : Instr} {b : Block} (h : (commandEffect i b).fopen ≠ b.fopen) :
    (i = .frmOpen ∧ (commandEffect i b).fopen = true) ∨ (i = .frmClose ∧ (commandEffect i b).fopen = false) := by
  have hf : framerCommand i = true :=
    framerCommand_of_groupPart_ne fun he => h (Block.groupPart_eq_iff.1 he).1
  rcases framerCommand_cases hf with rfl | ⟨d, rfl⟩ | rfl
  · exact .inl ⟨rfl, rfl⟩
  · exact absurd (frmByteEffect_fopen d b) h
  · exact .inr ⟨rfl, rfl⟩

/-- R27: the commands that change GCNT; only FRM_BYTE leaves anything but 0. -/
theorem commandEffect_gcnt_of_ne {i : Instr} {b : Block} (h : (commandEffect i b).gcnt ≠ b.gcnt) :
    (i = .frmOpen ∧ (commandEffect i b).gcnt = 0) ∨ (∃ d, i = .frmByte d) ∨
      (i = .frmClose ∧ (commandEffect i b).gcnt = 0) := by
  have hf : framerCommand i = true :=
    framerCommand_of_groupPart_ne fun he => h (Block.groupPart_eq_iff.1 he).2.1
  rcases framerCommand_cases hf with rfl | ⟨d, rfl⟩ | rfl
  · exact .inl ⟨rfl, rfl⟩
  · exact .inr (.inl ⟨d, rfl⟩)
  · exact .inr (.inr ⟨rfl, rfl⟩)

/-- A step that changes FOPEN: reset or FRM_CLOSE clears it, FRM_OPEN sets it. -/
theorem step_fopen_of_ne {s t : State} (h : step s = .next t) (hne : t.blk.fopen ≠ s.blk.fopen) :
    (t.blk.fopen = false ∧ (resetsNext s = true ∨ ∃ w, triedWord s = some w ∧ decode w = .ok .frmClose)) ∨
    (t.blk.fopen = true ∧ ∃ w, triedWord s = some w ∧ decode w = .ok .frmOpen) := by
  rcases commandOnly_fopen.changed h hne with ⟨hr, hb⟩ | ⟨w, i, hw, hd, -, hb⟩
  · exact .inl ⟨by rw [hb]; rfl, .inl hr⟩
  · rw [hb] at hne ⊢
    rcases commandEffect_fopen_of_ne hne with ⟨rfl, ho⟩ | ⟨rfl, ho⟩
    · exact .inr ⟨ho, w, hw, hd⟩
    · exact .inl ⟨ho, .inr ⟨w, hw, hd⟩⟩

/-- Settles O25: FOPEN and GCNT change by the framer's effects and by reset alone. -/
theorem frameStateWrittenOnlyByFramerCommands : Obligations.FrameStateWrittenOnlyByFramerCommands := by
  intro s t h
  refine ⟨fun hs ht => ?_, fun hs ht => ?_, fun hne => ?_⟩
  · rcases step_fopen_of_ne h (by simp [hs, ht]) with ⟨hf, -⟩ | ⟨-, hw⟩
    · simp [ht] at hf
    · exact hw
  · rcases step_fopen_of_ne h (by simp [hs, ht]) with ⟨-, hw⟩ | ⟨hf, -⟩
    · exact hw
    · simp [ht] at hf
  · rcases commandOnly_gcnt.changed h hne with ⟨hr, -⟩ | ⟨w, i, hw, hd, -, hb⟩
    · exact .inl hr
    · rw [hb] at hne ⊢
      exact .inr ⟨w, i, hw, hd, commandEffect_gcnt_of_ne hne⟩

/-! ### The error latch -/

/-- The word `w` is rejected with the code of `e` in the block `b` (60_exceptions.md R201): by the format checks, or by its
command's own. -/
def Rejects (w : Word) (b : Block) (e : CmdError) : Prop :=
  (∃ d, decode w = .error d ∧ e = errorOfDecode d) ∨ ∃ i, decode w = .ok i ∧ commandCheck i b = some e

/-- R29, R30: the only effect that changes the latch is CLR_ERR's. -/
theorem commandEffect_latch (i : Instr) (b : Block) :
    ((commandEffect i b).err = b.err ∧ (commandEffect i b).ecode = b.ecode) ∨
    (i = .clrErr ∧ (commandEffect i b).err = false ∧ (commandEffect i b).ecode = 0#4) := by
  cases i with
  | clrErr => exact .inr ⟨rfl, rfl, rfl⟩
  | recPut f d => exact .inl ⟨recPutEffect_err f d b, recPutEffect_ecode f d b⟩
  | frmByte d => exact .inl ⟨frmByteEffect_err d b, frmByteEffect_ecode d b⟩
  | _ => exact .inl ⟨rfl, rfl⟩

/-- A rejection latches the first error and keeps a latched one (60_exceptions.md R203). -/
theorem Block.raise_latch (b : Block) (e : CmdError) :
    ((b.raise e).err = b.err ∧ (b.raise e).ecode = b.ecode) ∨
    (b.err = false ∧ (b.raise e).err = true ∧ (b.raise e).ecode = e.code) := by
  cases hb : b.err with
  | false => exact .inr ⟨rfl, by simp [Block.raise_of_clear hb]⟩
  | true => exact .inl (by simp [Block.raise_of_latched hb, hb])

/-- What a step does to the latch. -/
inductive LatchMove (s t : State) : Prop where
  /-- It stays as it is. -/
  | kept (err : t.blk.err = s.blk.err) (ecode : t.blk.ecode = s.blk.ecode)
  /-- Reset or CLR_ERR clears it. -/
  | cleared (err : t.blk.err = false) (ecode : t.blk.ecode = 0#4)
      (cause : resetsNext s = true ∨ ∃ w, triedWord s = some w ∧ decode w = .ok .clrErr)
  /-- A rejection sets it. -/
  | latched (clear : s.blk.err = false) (err : t.blk.err = true) {w : Word} {e : CmdError} (tried : triedWord s = some w)
      (rejects : Rejects w s.blk e) (ecode : t.blk.ecode = e.code)

/-- The latch moves as a rejection moves it where the tried word is rejected. -/
theorem LatchMove.of_raise {s t : State} {w : Word} {e : CmdError} (hw : triedWord s = some w) (hr : Rejects w s.blk e)
    (hb : t.blk = s.blk.raise e) : LatchMove s t := by
  rcases s.blk.raise_latch e with ⟨herr, hcode⟩ | ⟨hclear, herr, hcode⟩
  · exact .kept (by rw [hb, herr]) (by rw [hb, hcode])
  · exact .latched hclear (by rw [hb, herr]) hw hr (by rw [hb, hcode])

/-- A try of the word `w` moves the latch in one of these ways. -/
theorem LatchMove.of_try {s u t : State} {w : Word} (hw : triedWord s = some w) (hu : u.blk = s.blk)
    (h : tryCommand w u = .next t) : LatchMove s t := by
  obtain ⟨v, hv, rfl⟩ := tryCommand_cases h
  rcases perform_cases hv with ⟨-, -, rfl⟩ | ⟨d, hd, rfl⟩ | ⟨i, hd, hi⟩
  · exact .kept (by simp [hu]) (by simp [hu])
  · exact .of_raise hw (.inl ⟨d, hd, rfl⟩) (by simp [hu])
  · rcases exec_cases hi with ⟨-, -, rfl⟩ | ⟨-, e, hc, rfl⟩ | ⟨-, -, -, rfl⟩ | ⟨-, -, -, rfl⟩
    · exact .kept (by simp [hu]) (by simp [hu])
    · exact .of_raise hw (.inr ⟨i, hd, by simpa [hu] using hc⟩) (by simp [hu])
    · exact .kept (by simp [hu]) (by simp [hu])
    · rcases commandEffect_latch i u.blk with ⟨herr, hcode⟩ | ⟨rfl, herr, hcode⟩
      · exact .kept (by simp [herr, ← hu]) (by simp [hcode, ← hu])
      · exact .cleared (by simpa using herr) (by simpa using hcode) (.inr ⟨w, hw, hd⟩)

/-- Every step moves the latch in one of these ways. -/
theorem step_latch {s t : State} (h : step s = .next t) : LatchMove s t := by
  rcases step_by_agent h with ⟨hr, hb⟩ | ⟨w, u, hw, hu, ht⟩ | ⟨_, v, -, -, hb⟩ | ⟨q, hb⟩
  · exact .cleared (by rw [hb]; rfl) (by rw [hb]; rfl) (.inl hr)
  · exact .of_try hw hu ht
  · exact .kept (by rw [hb]; rfl) (by rw [hb]; rfl)
  · exact .kept (by rw [hb]) (by rw [hb])

/-- Settles O26: the three moves of the latch, read off for each value of ERR before and after. -/
theorem errorLatchIsSticky : Obligations.ErrorLatchIsSticky := by
  intro s t h
  cases step_latch h with
  | kept herr hcode =>
    exact ⟨fun hs ht => by simp [herr, hs] at ht, fun hs ht => by simp [herr, hs] at ht, fun _ _ => hcode, fun _ _ => .inl hcode⟩
  | cleared herr hcode cause =>
    exact ⟨fun _ ht => by simp [herr] at ht, fun _ _ => cause, fun _ ht => by simp [herr] at ht, fun _ _ => .inr hcode⟩
  | @latched hclear herr w e hw hr hcode =>
    refine ⟨fun _ _ => ⟨w, hw, ?_⟩, fun hs => by simp [hclear] at hs, fun hs => by simp [hclear] at hs,
      fun _ ht => by simp [herr] at ht⟩
    rcases hr with ⟨d, hd, rfl⟩ | ⟨i, hd, hc⟩
    · exact .inl ⟨d, hd, hcode⟩
    · exact .inr ⟨i, e, hd, hc, hcode⟩

/-- R30: every code is 1 to 5. -/
theorem CmdError.code_range (e : CmdError) : 1#4 ≤ e.code ∧ e.code ≤ 5#4 := by cases e <;> decide

/-- Settles O45: the latch is kept as it was, cleared with its code, or takes a rejection's code. -/
theorem stepKeepsTheErrorLatch : Obligations.StepKeepsTheErrorLatch := by
  intro s t hs h
  cases step_latch h with
  | kept herr hcode => exact ⟨by rw [herr, hcode]; exact hs.clear, by rw [herr, hcode]; exact hs.latched⟩
  | cleared herr hcode _ => exact ⟨fun _ => hcode, fun ht => by simp [herr] at ht⟩
  | @latched _ herr _ e _ _ hcode => exact ⟨fun ht => by simp [herr] at ht, fun _ => hcode ▸ e.code_range⟩

/-! ### STATUS -/

@[simp] theorem flagWord_eq_setWidth (x : Bool) : flagWord x = (BitVec.ofBool x).setWidth 32 := by cases x <;> rfl

/-- R27: GCNT fits its two bits. -/
theorem gcnt_eq_setWidth (g : Fin 3) : BitVec.ofNat 32 g.val = (BitVec.ofNat 2 g.val).setWidth 32 := by
  revert g; decide

/-- R25, R32: the six fields of STATUS and its four reserved ones, as bit vectors. -/
theorem Block.status_fields (b : Block) :
    b.status.extractLsb' 0 1 = BitVec.ofBool b.fopen ∧
    b.status.extractLsb' 1 2 = BitVec.ofNat 2 b.gcnt.val ∧
    b.status.extractLsb' 3 1 = 0#1 ∧
    b.status.extractLsb' 4 2 = b.rstate.bits ∧
    b.status.extractLsb' 6 2 = 0#2 ∧
    b.status.extractLsb' 8 1 = BitVec.ofBool b.err ∧
    b.status.extractLsb' 9 3 = 0#3 ∧
    b.status.extractLsb' 12 4 = b.ecode ∧
    b.status.extractLsb' 16 8 = b.oqcnt ∧
    b.status.extractLsb' 24 8 = 0#8 := by
  unfold Block.status
  rw [gcnt_eq_setWidth]
  generalize BitVec.ofNat 2 b.gcnt.val = g
  refine ⟨?_, ?_, ?_, ?_, ?_, ?_, ?_, ?_, ?_, ?_⟩
  all_goals
    ext i hi
    interval_cases i <;> simp

/-- Settles O31: the fields as bit vectors, GCNT and OQCNT then read as the numbers they hold. -/
theorem statusShowsEveryField : Obligations.StatusShowsEveryField := by
  intro b
  obtain ⟨hfopen, hgcnt, h3, hrstate, h6, herr, h9, hecode, hoqcnt, h24⟩ := b.status_fields
  refine ⟨?_, ?_, h3, ?_, h6, ?_, h9, hecode, fun hlen => ?_, h24⟩
  · rw [hfopen]; cases b.fopen <;> rfl
  · rw [hgcnt, BitVec.toNat_ofNat, Nat.mod_eq_of_lt (by omega)]
  · rw [hrstate]; cases b.rstate <;> rfl
  · rw [herr]; cases b.err <;> rfl
  · rw [hoqcnt, Block.oqcnt, BitVec.toNat_ofNat, Nat.mod_eq_of_lt (by omega)]

end Sys2Proof.Machine
end

section
/-! PROOFS. 10_state.md R27, R31, R38, R39, R40 items 1, 2 and 8: what commands put on the queue, the group, and the frame on the wire. -/

namespace Sys2Proof.Machine

/-! ### What a command appends to the queue -/

/-- The bytes a command's effect appends to OUTQ (42_framer.md R155 to R157, R159). -/
def emitted : Instr → Block → List Byte
  | .frmOpen, _ => [dollar]
  | .frmByte d, b => if b.gcnt = 2 then enc3 b.gbuf0 b.gbuf1 d else []
  | .frmClose, b => b.tail ++ [newline]
  | _, _ => []

theorem emitted_of_not_framer {i : Instr} (h : framerCommand i = false) (b : Block) : emitted i b = [] := by
  cases i with
  | frmOpen => cases h
  | frmByte d => cases h
  | frmClose => cases h
  | _ => rfl

theorem length_emitted (i : Instr) (b : Block) : (emitted i b).length = emitCount i b := by
  cases i with
  | frmByte d => simp only [emitted, emitCount]; split <;> rfl
  | frmClose => simp [emitted, emitCount, Block.length_tail, frmCloseBytes]
  | _ => rfl

/-- GCNT is 0, 1 or 2 (R27). -/
theorem gcnt_cases (g : Fin 3) : g = 0 ∨ g = 1 ∨ g = 2 := by revert g; decide

theorem frmByteEffect_of_gcnt_zero {b : Block} (h : b.gcnt = 0) (d : Byte) :
    frmByteEffect d b = { b with gbuf0 := d, gcnt := 1 } := by simp [frmByteEffect, h]

theorem frmByteEffect_of_gcnt_one {b : Block} (h : b.gcnt = 1) (d : Byte) :
    frmByteEffect d b = { b with gbuf1 := d, gcnt := 2 } := by simp [frmByteEffect, h]

theorem frmByteEffect_of_gcnt_two {b : Block} (h : b.gcnt = 2) (d : Byte) :
    frmByteEffect d b = { b.emit (enc3 b.gbuf0 b.gbuf1 d) with gbuf0 := 0#8, gbuf1 := 0#8, gcnt := 0 } := by
  simp [frmByteEffect, h]

/-- R39: a command's effect keeps the queued bytes and appends its own. -/
theorem commandEffect_outq (i : Instr) (b : Block) : (commandEffect i b).outq = b.outq ++ emitted i b := by
  cases hf : framerCommand i with
  | false => rw [emitted_of_not_framer hf, List.append_nil, (commandEffect_of_not_framer hf b).2]
  | true =>
    rcases framerCommand_cases hf with rfl | ⟨d, rfl⟩ | rfl
    · rfl
    · rcases gcnt_cases b.gcnt with hg | hg | hg
      · simp [commandEffect, emitted, frmByteEffect_of_gcnt_zero hg, hg]
      · simp [commandEffect, emitted, frmByteEffect_of_gcnt_one hg, hg]
      · simp [commandEffect, emitted, frmByteEffect_of_gcnt_two hg, hg]
    · rfl

/-- Settles O28: every step is a take or keeps TX; then only a command's effect appends, and only a framer command's anything. -/
theorem queueGrowsByCommandsAndShrinksByTakes : Obligations.QueueGrowsByCommandsAndShrinksByTakes := by
  intro s t h hr
  rcases (step_block h).2 with ⟨hr', -, -⟩ | ⟨htx, hb⟩ | ⟨htx, e, hb⟩ | ⟨htx, v, hb⟩ | ⟨b, q, hq, hb, htx⟩ |
    ⟨htx, w, i, hw, hd, -, -, -, hb⟩
  · simp [hr] at hr'
  · exact .inr ⟨htx, [], by simp [hb], fun h => absurd rfl h⟩
  · exact .inr ⟨htx, [], by simp [hb], fun h => absurd rfl h⟩
  · exact .inr ⟨htx, [], by simp [hb], fun h => absurd rfl h⟩
  · exact .inl ⟨b, q, hq, by rw [hb], htx⟩
  · refine .inr ⟨htx, emitted i s.blk, by rw [hb, commandEffect_outq], fun hne => ⟨w, i, hw, hd, ?_⟩⟩
    by_contra hf
    exact hne (emitted_of_not_framer (by simpa using hf) _)

/-! ### The group and the queue's capacity -/

theorem GroupOk.congr {b b' : Block} (he : b'.groupPart = b.groupPart) (h : GroupOk b) : GroupOk b' := by
  obtain ⟨hf, hg, h0, h1⟩ := Block.groupPart_eq_iff.1 he
  exact ⟨by rw [hf, hg]; exact h.closed, by rw [hg, h0]; exact h.noFirst, by rw [hg, h1]; exact h.noSecond⟩

theorem reset_groupOk : GroupOk Block.reset := ⟨fun _ => rfl, fun _ => rfl, fun _ => rfl⟩

/-- FRM_STATE of FRM_BYTE and FRM_CLOSE passed: a frame is open. -/
theorem fopen_of_needsFrame {b : Block} (h : needsFrame b = none) : b.fopen = true := by
  simpa [needsFrame] using h

/-- FRM_STATE of FRM_OPEN passed: none is. -/
theorem fopen_of_needsNoFrame {b : Block} (h : needsNoFrame b = none) : b.fopen = false := by
  simpa [needsNoFrame] using h

/-- FRM_BYTE of an open frame fills the buffers in order and empties them with the third byte. -/
theorem GroupOk.frmByte {b : Block} (h : GroupOk b) (ho : b.fopen = true) (d : Byte) : GroupOk (frmByteEffect d b) := by
  rcases gcnt_cases b.gcnt with hg | hg | hg
  · rw [frmByteEffect_of_gcnt_zero hg]
    exact ⟨by simp [ho], by simp, fun _ => h.noSecond (by simp [hg])⟩
  · rw [frmByteEffect_of_gcnt_one hg]
    exact ⟨by simp [ho], by simp, by simp⟩
  · rw [frmByteEffect_of_gcnt_two hg]
    exact ⟨fun _ => rfl, fun _ => rfl, fun _ => rfl⟩

/-- R40 item 1, R38: every command that passes its check keeps the group consistent. -/
theorem GroupOk.effect {i : Instr} {b : Block} (h : GroupOk b) (hc : commandCheck i b = none) :
    GroupOk (commandEffect i b) := by
  cases hf : framerCommand i with
  | false => exact h.congr (commandEffect_of_not_framer hf b).1
  | true =>
    rcases framerCommand_cases hf with rfl | ⟨d, rfl⟩ | rfl
    · have hg : b.gcnt = 0 := h.closed (fopen_of_needsNoFrame hc)
      exact ⟨fun _ => rfl, fun _ => h.noFirst hg, fun _ => h.noSecond (by simp [hg])⟩
    · exact h.frmByte (fopen_of_needsFrame hc) d
    · exact ⟨fun _ => rfl, fun _ => rfl, fun _ => rfl⟩

/-- 42_framer.md R155 to R157: a command that need not wait leaves the queue within its capacity. -/
theorem room_of_not_waits {i : Instr} {depth : Nat} {b : Block} (hw : commandWaits i depth b = false) (h5 : 5 ≤ depth)
    (hq : b.outq.length ≤ depth) : b.outq.length + emitCount i b ≤ depth := by
  cases i with
  | frmOpen =>
    have hempty : b.outq.length = 0 := by simpa [commandWaits, frmOpenWaits] using hw
    simp only [emitCount]; omega
  | frmByte d =>
    rcases gcnt_cases b.gcnt with hg | hg | hg
    · simpa [emitCount, hg] using hq
    · simpa [emitCount, hg] using hq
    · simpa [commandWaits, frmByteWaits, emitCount, hg] using hw
  | frmClose =>
    have hroom : b.outq.length + frmCloseBytes b ≤ depth := by simpa [commandWaits, frmCloseWaits] using hw
    exact hroom
  | _ => exact hq

/-- R40 item 2: every step keeps the queue within a capacity of at least one group and a newline. -/
theorem step_keeps_queueOk {s t : State} (h5 : 5 ≤ s.cfg.outqDepth) (hq : QueueOk s) (h : step s = .next t) :
    QueueOk t := by
  obtain ⟨hcfg, hb⟩ := step_block h
  unfold QueueOk at hq ⊢
  rw [hcfg]
  rcases hb with ⟨-, -, hb⟩ | ⟨-, hb⟩ | ⟨-, e, hb⟩ | ⟨-, v, hb⟩ | ⟨b, q, ho, hb, -⟩ | ⟨-, w, i, -, -, -, hw, -, hb⟩
  · rw [hb]; exact Nat.zero_le _
  · rwa [hb]
  · rwa [hb, Block.raise_outq]
  · rwa [hb]
  · rw [ho] at hq
    rw [hb]
    exact Nat.le_of_succ_le hq
  · rw [hb, commandEffect_outq, List.length_append, length_emitted]
    exact room_of_not_waits hw h5 hq

/-- Settles O46: the group's invariant is kept by every effect, the queue's by the hold checks; no step changes the parameters. -/
theorem stepKeepsTheQueueAndGroup : Obligations.StepKeepsTheQueueAndGroup := by
  intro s t hlegal hg hq h
  obtain ⟨-, h5, -⟩ := hlegal
  exact ⟨(step_block h).1, commandOnly_groupPart.step_keeps GroupOk.congr reset_groupOk GroupOk.effect hg h,
    step_keeps_queueOk h5 hq h⟩

/-! ### One frame on the wire -/

theorem WireOk.congr {s t : State} (h : WireOk s) (htx : t.tx = s.tx) (hf : t.blk.fopen = s.blk.fopen)
    (hq : t.blk.outq = s.blk.outq) : WireOk t := by
  unfold WireOk at h ⊢
  rwa [htx, hf, hq]

/-- The queue is empty and no frame is open. -/
theorem wireOk_of_idle {s : State} (hf : s.blk.fopen = false) (hq : s.blk.outq = []) : WireOk s :=
  ⟨fun ho => by simp [hf] at ho, fun _ => .inl hq⟩

/-- A take moves the boundary between the bytes taken and those queued. -/
theorem WireOk.take {s t : State} {x : Byte} {q : List Byte} (h : WireOk s) (hq : s.blk.outq = x :: q)
    (hb : t.blk = { s.blk with outq := q }) (htx : t.tx = s.tx ++ [x]) : WireOk t := by
  have move : ∀ {u r : List Byte}, u <:+ s.tx → u ++ s.blk.outq = r → (u ++ [x]) <:+ t.tx ∧ (u ++ [x]) ++ t.blk.outq = r := by
    intro u r hu hr
    exact ⟨htx ▸ List.suffix_append_self_iff.2 hu, by simp [← hr, hq, hb]⟩
  refine ⟨fun ho => ?_, fun ho => ?_⟩
  · obtain ⟨u, g, hu, hg, hr⟩ := h.1 (by simpa [hb] using ho)
    obtain ⟨hu', hr'⟩ := move hu hr
    exact ⟨u ++ [x], g, hu', hg, hr'⟩
  · rcases h.2 (by simpa [hb] using ho) with hempty | ⟨u, p, hu, hr⟩
    · simp [hq] at hempty
    · obtain ⟨hu', hr'⟩ := move hu hr
      exact .inr ⟨u ++ [x], p, hu', hr'⟩

/-- FRM_OPEN on an empty queue starts a frame of which nothing is taken (42_framer.md R155). -/
theorem wireOk_frmOpen {s t : State} (hq : s.blk.outq = []) (hb : t.blk = frmOpenEffect s.blk) : WireOk t :=
  ⟨fun _ => ⟨[], [], List.nil_suffix, rfl, by simp [hb, hq]⟩, fun hf => by simp [hb] at hf⟩

/-- FRM_BYTE's third byte appends the text of one more complete group (R156). -/
theorem WireOk.frmByte {s t : State} {d : Byte} (h : WireOk s) (ho : s.blk.fopen = true)
    (hb : t.blk = frmByteEffect d s.blk) (htx : t.tx = s.tx) : WireOk t := by
  have hf : t.blk.fopen = s.blk.fopen := by rw [hb, frmByteEffect_fopen]
  rcases gcnt_cases s.blk.gcnt with hg | hg | hg
  · exact h.congr htx hf (by rw [hb, frmByteEffect_of_gcnt_zero hg])
  · exact h.congr htx hf (by rw [hb, frmByteEffect_of_gcnt_one hg])
  · refine ⟨fun _ => ?_, fun hc => by simp [hf, ho] at hc⟩
    obtain ⟨u, g, hu, hlen, hr⟩ := h.1 ho
    refine ⟨u, g ++ [s.blk.gbuf0, s.blk.gbuf1, d], htx ▸ hu, by simpa using hlen, ?_⟩
    have hq : t.blk.outq = s.blk.outq ++ enc3 s.blk.gbuf0 s.blk.gbuf1 d := by
      rw [hb, frmByteEffect_of_gcnt_two hg]; rfl
    rw [hq, ← List.append_assoc, hr, b64_append hlen, b64_group, b64_nil, List.append_nil, List.append_assoc]

/-- FRM_CLOSE appends the tail of the pending bytes and the newline: the frame of the whole payload (R150, R157). -/
theorem WireOk.frmClose {s t : State} (h : WireOk s) (ho : s.blk.fopen = true) (hb : t.blk = frmCloseEffect s.blk)
    (htx : t.tx = s.tx) : WireOk t := by
  refine ⟨fun hf => by simp [hb] at hf, fun _ => .inr ?_⟩
  obtain ⟨u, g, hu, hlen, hr⟩ := h.1 ho
  refine ⟨u, g ++ s.blk.pending, htx ▸ hu, ?_⟩
  rw [hb, frmCloseEffect_outq, ← List.append_assoc, hr, frame, b64_append hlen, Block.b64_pending]
  simp

/-- R40 item 8: every command that passes its check and need not wait keeps one frame on the wire. -/
theorem WireOk.effect {s t : State} {i : Instr} (h : WireOk s) (hc : commandCheck i s.blk = none)
    (hw : commandWaits i s.cfg.outqDepth s.blk = false) (hb : t.blk = commandEffect i s.blk) (htx : t.tx = s.tx) :
    WireOk t := by
  cases hf : framerCommand i with
  | false =>
    obtain ⟨hgroup, hq⟩ := commandEffect_of_not_framer hf s.blk
    exact h.congr htx (hb ▸ (Block.groupPart_eq_iff.1 hgroup).1) (hb ▸ hq)
  | true =>
    rcases framerCommand_cases hf with rfl | ⟨d, rfl⟩ | rfl
    · exact wireOk_frmOpen (by simpa [commandWaits, frmOpenWaits] using hw) hb
    · exact h.frmByte (fopen_of_needsFrame hc) hb htx
    · exact h.frmClose (fopen_of_needsFrame hc) hb htx

/-- Settles O47: each case of a step keeps the bytes taken and queued one frame. -/
theorem stepKeepsOneFrameOnTheWire : Obligations.StepKeepsOneFrameOnTheWire := by
  intro s t hs h
  rcases (step_block h).2 with ⟨-, -, hb⟩ | ⟨htx, hb⟩ | ⟨htx, e, hb⟩ | ⟨htx, v, hb⟩ | ⟨x, q, hq, hb, htx⟩ |
    ⟨htx, w, i, -, -, hc, hw, -, hb⟩
  · exact wireOk_of_idle (by rw [hb]; rfl) (by rw [hb]; rfl)
  · exact hs.congr htx (by rw [hb]) (by rw [hb])
  · exact hs.congr htx (by rw [hb, Block.raise_fopen]) (by rw [hb, Block.raise_outq])
  · exact hs.congr htx (by rw [hb]; rfl) (by rw [hb]; rfl)
  · exact hs.take hq hb htx
  · exact hs.effect hc hw hb htx

end Sys2Proof.Machine
end

section
/-! PROOFS. 10_state.md R40 items 4 to 7: every effect keeps the record's invariant. -/

namespace Sys2Proof.Machine

/-! ### The layout of 41_record.md R120 -/

theorem TextField.capacity_lt_width (f : TextField) : f.capacity < f.width := by cases f <;> decide

/-- A string field lies after the magic and before the crc32 field. -/
theorem TextField.extent (f : TextField) : magic.length ≤ f.offset ∧ f.offset + f.width ≤ crcOffset := by
  cases f <;> decide

/-- The dirty byte is in no string field. -/
theorem TextField.ne_dirtyOffset (f : TextField) {i : Nat} (hi : i < f.width) : f.offset + i ≠ dirtyOffset := by
  cases f <;> simp only [TextField.offset, TextField.width, dirtyOffset] at * <;> omega

/-- Different string fields share no byte. -/
theorem TextField.disjoint {f g : TextField} (hne : f ≠ g) {i j : Nat} (hi : i < f.width) (hj : j < g.width) :
    f.offset + i ≠ g.offset + j := by
  cases f <;> cases g <;> simp only [TextField.offset, TextField.width, ne_eq, not_true_eq_false] at * <;> omega

/-! ### What the invariant depends on -/

/-- The payload depends on the record's bytes before the crc32 field and on the lengths alone. -/
theorem Block.payload_congr {b b' : Block} (hlen : ∀ f, (b'.text f).len = (b.text f).len)
    (hcap : ∀ f, (b.text f).len ≤ f.capacity) (hread : ∀ i, i < crcOffset → b'.record.read i = b.record.read i) :
    b'.payload = b.payload := by
  have htext : ∀ f, b'.textBytes f = b.textBytes f := fun f => by
    unfold Block.textBytes
    rw [hlen f]
    refine Memory.readBytes_congr fun j hj => hread _ ?_
    have := hcap f
    have := f.capacity_lt_width
    have := f.extent.2
    omega
  simp only [Block.payload, htext, hread dirtyOffset (by decide)]

/-- The invariant depends on the record, RSTATE and the lengths, and in EMPTY on the fields' ends too. -/
theorem RecordOk.of_lengths {b b' : Block} (h : RecordOk b) (hm : b'.record = b.record) (hs : b'.rstate = b.rstate)
    (hlen : ∀ f, (b'.text f).len = (b.text f).len) (htext : b.rstate = .empty → ∀ f, b'.text f = b.text f) :
    RecordOk b' where
  canonical := hm ▸ h.canonical
  bounded := hm ▸ h.bounded
  lengths f := hlen f ▸ h.lengths f
  emptyRecord he := by
    rw [hs] at he
    exact ⟨hm ▸ (h.emptyRecord he).1, fun f => (htext he f).trans ((h.emptyRecord he).2 f)⟩
  hasMagic := by rw [hm, hs]; exact h.hasMagic
  stored := by simpa only [hm, hs, hlen] using h.stored
  padded := by simpa only [hm, hs, hlen] using h.padded
  dirty := by rw [hm, hs]; exact h.dirty
  unsealed := by rw [hm, hs]; exact h.unsealed
  sealedCrc := by
    rw [hm, hs, Block.payload_congr hlen h.lengths fun i _ => by rw [hm]]
    exact h.sealedCrc

theorem RecordOk.congr {b b' : Block} (he : b'.recordPart = b.recordPart) (h : RecordOk b) : RecordOk b' := by
  obtain ⟨hm, hs, htext⟩ := Block.recordPart_eq_iff.1 he
  exact h.of_lengths hm hs (fun f => by rw [htext f]) fun _ => htext

/-- R40 item 5 for one string field that holds `n` characters: they fit, none is 0x00, and the rest of the field is. -/
structure FieldOk (m : Memory) (f : TextField) (n : Nat) : Prop where
  fits : n ≤ f.capacity
  stored : ∀ i, i < n → m.read (f.offset + i) ≠ 0#8
  padded : ∀ i, n ≤ i → i < f.width → m.read (f.offset + i) = 0#8

/-- A field depends on its own bytes alone. -/
theorem FieldOk.congr {m m' : Memory} {f : TextField} {n : Nat} (h : FieldOk m f n)
    (hread : ∀ i, i < f.width → m'.read (f.offset + i) = m.read (f.offset + i)) : FieldOk m' f n where
  fits := h.fits
  stored i hi := by
    rw [hread i (Nat.lt_of_lt_of_le hi (Nat.le_trans h.fits f.capacity_lt_width.le))]
    exact h.stored i hi
  padded i hi hw := (hread i hw).trans (h.padded i hi hw)

/-- One more character of a field that is not full. -/
theorem FieldOk.push {m : Memory} {f : TextField} {n : Nat} (h : FieldOk m f n) (hm : m.wf) (hn : n < f.capacity)
    {d : Byte} (hd : d ≠ 0#8) : FieldOk (m.write (f.offset + n) d) f (n + 1) where
  fits := hn
  stored i hi := by
    rw [Memory.read_write hm]
    split
    · exact hd
    · exact h.stored i (by omega)
  padded i hi hw := by
    rw [Memory.read_write_other _ _ (by omega)]
    exact h.padded i (by omega) hw

theorem RecordOk.field {b : Block} (h : RecordOk b) (hne : b.rstate ≠ .empty) (f : TextField) :
    FieldOk b.record f (b.text f).len :=
  ⟨h.lengths f, h.stored hne f, h.padded hne f⟩

/-- The invariant of a record that is begun, its string fields taken one by one. -/
theorem RecordOk.of_fields {b : Block} (hne : b.rstate ≠ .empty) (hwf : b.record.wf)
    (hbounded : ∀ c ∈ b.record, c.1 < recordSize) (hmagic : b.record.readBytes 0 4 = magic)
    (hfield : ∀ f, FieldOk b.record f (b.text f).len)
    (hdirty : b.record.read dirtyOffset = 0#8 ∨ b.record.read dirtyOffset = 1#8)
    (hunsealed : b.rstate = .building → b.record.readBytes crcOffset 4 = [0#8, 0#8, 0#8, 0#8])
    (hsealed : b.rstate = .sealed → b.record.readBytes crcOffset 4 = bytesLE (crc32 b.payload)) : RecordOk b where
  canonical := hwf
  bounded := hbounded
  lengths f := (hfield f).fits
  emptyRecord h := absurd h hne
  hasMagic _ := hmagic
  stored _ f := (hfield f).stored
  padded _ f := (hfield f).padded
  dirty _ := hdirty
  unsealed := hunsealed
  sealedCrc := hsealed

/-- Item 4: the reset record. -/
theorem recordOk_reset : RecordOk Block.reset where
  canonical := Memory.wf_reset
  bounded := by decide
  lengths f := by cases f <;> decide
  emptyRecord _ := ⟨fun _ => rfl, fun f => by cases f <;> rfl⟩
  hasMagic h := absurd rfl h
  stored h := absurd rfl h
  padded h := absurd rfl h
  dirty h := absurd rfl h
  unsealed h := by cases h
  sealedCrc h := by cases h

/-- REC_STATE passed: the record is being built. -/
theorem building_of_needsBuilding {b : Block} (h : needsBuilding b = none) : b.rstate = .building := by
  simpa [needsBuilding] using h

/-! ### REC_BEGIN, REC_PUT, REC_DIRTY, REC_SEAL -/

@[simp] theorem recBeginEffect_text (b : Block) (f : TextField) : (recBeginEffect b).text f = .cleared := by
  cases f <;> rfl

/-- 41_record.md R126: behind the magic every byte of a begun record is 0x00. -/
theorem recBeginEffect_read (b : Block) {i : Nat} (h : magic.length ≤ i) : (recBeginEffect b).record.read i = 0#8 := by
  rw [recBeginEffect_record, Memory.read_writeBytes_outside _ _ (.inr (by simpa using h)), Memory.read_nil]

/-- REC_BEGIN makes the record good whatever it was (R126). -/
theorem recordOk_recBegin (b : Block) : RecordOk (recBeginEffect b) where
  canonical := Memory.wf_writeBytes Memory.wf_reset 0 magic
  bounded := Memory.bounded_writeBytes (by simp) magic (by decide)
  lengths f := by simp [TextState.cleared]
  emptyRecord h := by cases h
  hasMagic _ := Memory.readBytes_writeBytes Memory.wf_reset 0 magic
  stored _ f i hi := by simp [TextState.cleared] at hi
  padded _ f i _ _ := recBeginEffect_read b (Nat.le_add_right_of_le f.extent.1)
  dirty _ := .inl (recBeginEffect_read b (by decide))
  unsealed _ := rfl
  sealedCrc h := by cases h

/-- A write to one byte leaves a range that does not hold it. -/
theorem Memory.readBytes_write_other (m : Memory) {i n j : Nat} (v : Byte) (h : j < i ∨ i + n ≤ j) :
    (m.write j v).readBytes i n = m.readBytes i n :=
  Memory.readBytes_congr fun _ _ => Memory.read_write_other m v (by omega)

/-- One more character of a string field that has not ended and is not full (R127). -/
theorem RecordOk.append {b : Block} (h : RecordOk b) (hb : b.rstate = .building) {f : TextField} {d : Byte}
    (hlen : (b.text f).len < f.capacity) (hd : d ≠ 0#8) (t : TextState) (ht : t.len = (b.text f).len + 1) :
    RecordOk (({ b with record := b.record.write (f.offset + (b.text f).len) d } : Block).setText f t) := by
  have hne : b.rstate ≠ .empty := by simp [hb]
  have hwidth : (b.text f).len < f.width := Nat.lt_trans hlen f.capacity_lt_width
  obtain ⟨hlow, hhigh⟩ := f.extent
  have hmagic : magic.length = 4 := rfl
  have hcrc : crcOffset = 67 := rfl
  refine .of_fields (by simpa using hne) ?_ ?_ ?_ (fun g => ?_) ?_ (fun _ => ?_) (fun hs => absurd hs (by simp [hb]))
    <;> simp only [Block.setText_record]
  · exact Memory.wf_write h.canonical _ d
  · exact Memory.bounded_write h.bounded (show _ < 71 by omega) d
  · rw [Memory.readBytes_write_other _ _ (by omega)]
    exact h.hasMagic hne
  · by_cases hg : g = f
    · subst hg
      rw [Block.text_setText_same, ht]
      exact (h.field hne g).push h.canonical hlen hd
    · rw [Block.text_setText_other _ _ hg, Block.text_with_record]
      exact (h.field hne g).congr fun i hi => Memory.read_write_other _ _ (TextField.disjoint hg hi hwidth)
  · rw [Memory.read_write_other _ _ (f.ne_dirtyOffset hwidth).symm]
    exact h.dirty hne
  · rw [Memory.readBytes_write_other _ _ (by omega)]
    exact h.unsealed hb

/-- A NUL ends a string field and leaves its length (R127). -/
theorem RecordOk.terminate {b : Block} (h : RecordOk b) (hb : b.rstate = .building) (f : TextField) :
    RecordOk (b.setText f { b.text f with term := true }) := by
  refine h.of_lengths (b.setText_record f _) (b.setText_rstate f _) (fun g => ?_) fun he => by simp [hb] at he
  by_cases hg : g = f
  · subst hg; rw [Block.text_setText_same]
  · rw [Block.text_setText_other _ _ hg]

/-- REC_PUT's three cases (R127). -/
theorem RecordOk.put {b : Block} (h : RecordOk b) (hb : b.rstate = .building) (f : TextField) (d : Byte) :
    RecordOk (putEffect f d b) := by
  unfold putEffect
  dsimp only
  split
  · exact h
  · next hopen =>
    rw [not_or] at hopen
    split
    · exact h.terminate hb f
    · next hd => exact h.append hb (Nat.lt_of_le_of_ne (h.lengths f) hopen.2) hd _ rfl

/-- REC_PUT, whose checks leave a selector of a field and a record being built. -/
theorem RecordOk.recPut {b : Block} (h : RecordOk b) {f : BitVec 3} (hc : recPutCheck f b = none) (d : Byte) :
    RecordOk (recPutEffect f d b) := by
  unfold recPutCheck at hc
  unfold recPutEffect
  cases hf : TextField.ofSelector f with
  | none => exact h
  | some x =>
    rw [hf] at hc
    exact h.put (building_of_needsBuilding hc) x d

/-- REC_DIRTY's byte (R128). -/
theorem dirtyByte_eq_zero_or_one (v : BitVec 1) : dirtyByte v = 0#8 ∨ dirtyByte v = 1#8 := by revert v; decide

/-- REC_DIRTY writes 0 or 1 to a byte outside every string field (R128). -/
theorem RecordOk.recDirty {b : Block} (h : RecordOk b) (hb : b.rstate = .building) (v : BitVec 1) :
    RecordOk (recDirtyEffect v b) := by
  have hne : b.rstate ≠ .empty := by simp [hb]
  refine .of_fields hne ?_ ?_ ?_ (fun f => ?_) ?_ (fun _ => ?_) (fun hs => absurd hs (by simp [hb]))
    <;> simp only [recDirtyEffect_record]
  · exact Memory.wf_write h.canonical _ _
  · exact Memory.bounded_write h.bounded (by decide) _
  · rw [Memory.readBytes_write_other _ _ (by decide)]
    exact h.hasMagic hne
  · exact (h.field hne f).congr fun i hi => Memory.read_write_other _ _ (f.ne_dirtyOffset hi)
  · rw [Memory.read_write_same h.canonical]
    exact dirtyByte_eq_zero_or_one v
  · rw [Memory.readBytes_write_other _ _ (by decide)]
    exact h.unsealed hb

/-- REC_SEAL writes the CRC of the payload behind every byte the payload reads (R123, R129). -/
theorem RecordOk.recSeal {b : Block} (h : RecordOk b) (hb : b.rstate = .building) : RecordOk (recSealEffect b) := by
  have hne : b.rstate ≠ .empty := by simp [hb]
  have hread : ∀ i, i < crcOffset → (recSealEffect b).record.read i = b.record.read i :=
    fun i hi => Memory.read_writeBytes_outside _ _ (.inl hi)
  have hpayload : (recSealEffect b).payload = b.payload := Block.payload_congr (fun _ => rfl) h.lengths hread
  refine .of_fields (by simp) ?_ ?_ ?_ (fun f => ?_) ?_ (fun hs => ?_) fun _ => ?_
  · exact Memory.wf_writeBytes h.canonical _ _
  · exact Memory.bounded_writeBytes h.bounded _ (by simp [crcOffset, recordSize])
  · exact (Memory.readBytes_congr fun j hj => hread _ (by simp only [crcOffset]; omega)).trans (h.hasMagic hne)
  · exact (h.field hne f).congr fun i hi => hread _ (Nat.lt_of_lt_of_le (Nat.add_lt_add_left hi _) f.extent.2)
  · rw [hread _ (by decide)]
    exact h.dirty hne
  · cases hs
  · rw [hpayload]
    exact Memory.readBytes_writeBytes h.canonical crcOffset (bytesLE (crc32 b.payload))

/-- R40 items 4 to 7: every command that passes its check keeps the record's invariant. -/
theorem RecordOk.effect {i : Instr} {b : Block} (h : RecordOk b) (hc : commandCheck i b = none) :
    RecordOk (commandEffect i b) := by
  by_cases he : (commandEffect i b).recordPart = b.recordPart
  · exact h.congr he
  · rcases recordCommand_of_recordPart_ne he with rfl | ⟨f, d, rfl⟩ | ⟨v, rfl⟩ | rfl
    · exact recordOk_recBegin b
    · exact h.recPut hc d
    · exact h.recDirty (building_of_needsBuilding hc) v
    · exact h.recSeal (building_of_needsBuilding hc)

/-- Settles O44: the record's invariant is kept by every effect, and nothing else but reset touches the record. -/
theorem stepKeepsTheRecord : Obligations.StepKeepsTheRecord := fun _ _ hs h =>
  commandOnly_recordPart.step_keeps RecordOk.congr recordOk_reset RecordOk.effect hs h

/-! ### Reset -/

/-- Settles O43: the port is free and every element of the block is 0 or empty. -/
theorem invariantsHoldAtReset : Obligations.InvariantsHoldAtReset := by
  intro c
  refine ⟨recordOk_reset, ⟨fun _ => rfl, fun h => by cases h⟩, reset_groupOk, Nat.zero_le _, wireOk_of_idle rfl rfl, ?_⟩
  intro w hw
  cases hw

end Sys2Proof.Machine
end

section
/-! PROOFS. 30_encoding.md R85: the format checks and the bits of an accepted word. -/

namespace Sys2Proof

/-- R82, R85: the word of a command taken from `w` has its row's match bits, and outside the row's mask the bits of `w`. -/
theorem encode_operands (o : Opcode) (w : Word) : encode (o.operands w) = o.matchBits ||| (w &&& ~~~o.maskBits) := by
  cases o with
  | crcByte | frmByte | recPut | recDirty =>
    ext i hi
    interval_cases i <;> simp [encode, pack, Opcode.operands, Opcode.matchBits, Opcode.maskBits, Opcode.mbz, Opcode.bits,
      dataField, selectorField, dirtyField]
  | _ => simp [encode, pack, Opcode.operands, Opcode.matchBits, Opcode.maskBits, Opcode.mbz]

/-- R81: the eight bits above the reserved and operand fields are OP. -/
theorem opField_in_place (w : Word) : w &&& 0xFF000000#32 = (opField w).setWidth 32 <<< 24 := by
  ext i hi
  interval_cases i <;> simp [opField]

/-- R85: a word that passes the two format checks of an opcode matches its row. -/
theorem masked_of_accepted {o : Opcode} {w : Word} (ho : opField w = o.bits) (hm : w &&& o.mbz = 0#32) :
    w &&& o.maskBits = o.matchBits := by
  rw [Opcode.maskBits, BitVec.and_or_distrib_left, hm, BitVec.or_zero, opField_in_place, ho, Opcode.matchBits]

/-- A word that decodes is the word of its command: under the row's mask it is the match, outside it the operands. -/
theorem encode_of_decode {w : Word} {i : Instr} (h : decode w = .ok i) : encode i = w := by
  rcases decode_cases w with ⟨-, h'⟩ | ⟨o, -, -, h'⟩ | ⟨o, ho, hm, h'⟩
  · rw [h] at h'; cases h'
  · rw [h] at h'; cases h'
  · rw [h] at h'
    cases h'
    rw [encode_operands, ← masked_of_accepted ho hm, ← BitVec.and_or_distrib_left, BitVec.or_not_self, BitVec.and_allOnes]

end Sys2Proof
end

section
/-! PROOFS. 20_memory.md R51 to R60: the window, the values of the admitted reads, and which commands are held. -/

namespace Sys2Proof.Machine

/-! ### The window -/

/-- R51: the bus address of an offset of the window. -/
theorem windowOffset_base_add (c : Config) {off : Nat} (h : off ≤ 0xFF) : windowOffset c (c.baseAddr + off) = some off := by
  simp [windowOffset, h]

/-! ### Reads -/

/-- R54: byte `j` of a little-endian word is the `j`-th byte of its sequence, 0x00 where there is none. -/
theorem wordLE_byte (bs : List Byte) {j : Nat} (hj : j < 4) : (wordLE bs).extractLsb' (8 * j) 8 = bs[j]?.getD 0#8 := by
  induction bs generalizing j with
  | nil => simp [wordLE]
  | cons b bs ih =>
    cases j with
    | zero =>
      ext i hi
      simp [wordLE, hi, show i < 32 by omega]
    | succ j =>
      rw [List.getElem?_cons_succ, ← ih (by omega)]
      ext i hi
      have hlow : b.getLsbD (8 * (j + 1) + i) = false := BitVec.getLsbD_of_ge b _ (by omega)
      simp [wordLE, hlow, show 8 * (j + 1) + i < 32 by omega, show ¬ 8 * (j + 1) + i < 8 by omega,
        show 8 * (j + 1) + i - 8 = 8 * j + i by omega, BitVec.getLsbD_eq_getElem (show 8 * j + i < 32 by omega)]

/-- R54: the bytes of `ReadRec(off, n)` are the window's, zero-extended. -/
theorem Block.readRec_byte (b : Block) (off n : Nat) {j : Nat} (hj : j < 4) :
    (b.readRec off n).extractLsb' (8 * j) 8 = if j < n then b.windowByte (off + j) else 0#8 := by
  rw [Block.readRec, wordLE_byte _ hj, List.getElem?_map]
  by_cases h : j < n
  · simp [h]
  · simp [h]

/-- R53, R54: an aligned read of the REC window. -/
theorem Block.readValue_rec (b : Block) {width : Width} {off : Nat} (hlo : recBase ≤ off) (hhi : off ≤ recLast)
    (ha : off % width.bytes = 0) : b.readValue width off = some (b.readRec off width.bytes) := by
  simp [Block.readValue, hlo, hhi, ha]

theorem Block.readRegister_isSome (b : Block) (off : Nat) :
    (b.readRegister off).isSome ↔ off = 0x004 ∨ off = 0x008 ∨ off = 0x00C ∨ off = 0x010 := by
  unfold Block.readRegister statusOffset crcAccOffset crcOutOffset frmMetaOffset
  split_ifs <;> simp_all

/-- R56: the admitted reads are those that have a value. -/
theorem Block.readValue_isSome (b : Block) (width : Width) (off : Nat) :
    (b.readValue width off).isSome ↔ AdmittedRead width off := by
  unfold Block.readValue AdmittedRead
  by_cases hw : recBase ≤ off ∧ off ≤ recLast
  · have hreg : ¬(off = 0x004 ∨ off = 0x008 ∨ off = 0x00C ∨ off = 0x010) := by
      simp only [recBase] at hw; omega
    by_cases ha : off % width.bytes = 0 <;> simp_all [recBase, recLast]
  · have hrec : ¬(0x080 ≤ off ∧ off ≤ 0x0C7 ∧ off % width.bytes = 0) := fun h => hw ⟨h.1, h.2.1⟩
    cases width <;> simp [hw, hrec, Block.readRegister_isSome]

/-- Settles O30: the registers by their offsets, the record's bytes by those of the little-endian word. -/
theorem readsReturnTheRegisters : Obligations.ReadsReturnTheRegisters := by
  intro b width off
  refine ⟨rfl, rfl, rfl, rfl, fun hlo hhi ha => ⟨_, b.readValue_rec hlo hhi ha, fun j hj => ?_⟩⟩
  rw [b.readRec_byte off _ hj]
  by_cases hn : j < width.bytes <;> by_cases hl : off + j = 0x0C7 <;> simp [hn, hl, Block.windowByte, recLast, recBase]

/-! ### Which commands are held -/

theorem executes_iff {i : Instr} {b : Block} :
    executes i b = true ↔ (b.err = false ∨ exemptOp i.opcode.bits = true) ∧ commandCheck i b = none := by
  simp [executes]

/-- Whether a command is executed does not depend on the queue. -/
theorem executes_with_outq (i : Instr) (b : Block) (q : List Byte) : executes i { b with outq := q } = executes i b := by
  cases i <;> rfl

/-- 42_framer.md R159: no command emits more than five bytes. -/
theorem emitCount_le (i : Instr) (b : Block) : emitCount i b ≤ 5 := by
  cases i with
  | frmByte d => simp only [emitCount]; split <;> omega
  | frmClose => simp only [emitCount]; split <;> omega
  | _ => simp [emitCount]

/-- 42_framer.md R155 to R157: FRM_OPEN waits for an empty queue, any other command while there is no room for what it emits. -/
theorem commandWaits_iff (i : Instr) (depth : Nat) (b : Block) : commandWaits i depth b = true ↔
    if i = .frmOpen then 0 < b.outq.length else emitCount i b ≠ 0 ∧ depth < b.outq.length + emitCount i b := by
  cases i with
  | frmOpen => simp [commandWaits, frmOpenWaits]
  | frmByte d => rcases gcnt_cases b.gcnt with hg | hg | hg <;> simp [commandWaits, frmByteWaits, emitCount, hg]
  | frmClose => simp only [commandWaits, frmCloseWaits, frmCloseBytes, emitCount]; split <;> simp
  | _ => simp [commandWaits, neverWaits, emitCount]

/-- R60: a command that is executed and must wait is blocked. -/
theorem blocked_of_waits {i : Instr} {depth : Nat} {b : Block} (hx : executes i b = true)
    (hw : commandWaits i depth b = true) : blocked i depth b = true := by
  rw [commandWaits_iff] at hw
  split at hw
  · next h => subst h; simp [blocked, hx, hw]
  · next h => simp [blocked, hx, h, hw.2]

/-- R60: with the queue within its capacity a blocked command must wait, since what does not fit is not nothing. -/
theorem waits_of_blocked {i : Instr} {depth : Nat} {b : Block} (hq : b.outq.length ≤ depth)
    (hb : blocked i depth b = true) : commandWaits i depth b = true := by
  rw [commandWaits_iff]
  unfold blocked at hb
  split
  · next h => simpa [h] using (Bool.and_eq_true_iff.1 hb).2
  · next h =>
    have hroom : depth < b.outq.length + emitCount i b := by simpa [h] using (Bool.and_eq_true_iff.1 hb).2
    exact ⟨by omega, hroom⟩

theorem executes_of_blocked {i : Instr} {depth : Nat} {b : Block} (h : blocked i depth b = true) : executes i b = true :=
  (Bool.and_eq_true_iff.1 h).1

/-- R60, 42_framer.md R159: on an empty queue no command is blocked. -/
theorem not_blocked_of_empty {i : Instr} {depth : Nat} {b : Block} (h5 : 5 ≤ depth) (hq : b.outq = []) :
    blocked i depth b = false := by
  have hn := emitCount_le i b
  unfold blocked
  split
  · simp [hq]
  · simp only [hq, List.length_nil, Bool.and_eq_false_imp, decide_eq_false_iff_not]
    omega

/-- A command that is executed is held if it must wait, and otherwise has its effect. -/
theorem exec_of_executes {i : Instr} {s : State} (hx : executes i s.blk = true) :
    (commandWaits i s.cfg.outqDepth s.blk = true ∧ exec i s = .next (s.hold i)) ∨
    (commandWaits i s.cfg.outqDepth s.blk = false ∧ exec i s = .next (s.withBlock (commandEffect i s.blk))) := by
  obtain ⟨herr, hcheck⟩ := executes_iff.1 hx
  obtain ⟨t, ht⟩ := exec_answers i s
  rcases exec_cases ht with ⟨he, hexempt, -⟩ | ⟨-, e, hc, -⟩ | ⟨-, -, hw, rfl⟩ | ⟨-, -, hw, rfl⟩
  · simp [he, hexempt] at herr
  · rw [hcheck] at hc; cases hc
  · exact .inl ⟨hw, ht⟩
  · exact .inr ⟨hw, ht⟩

/-- Settles O19: a command that holds its word passed its checks and waits, and within the capacity waiting is being blocked. -/
theorem heldExactlyWhenBlocked : Obligations.HeldExactlyWhenBlocked := by
  intro i s hfree hq
  constructor
  · intro h
    rcases exec_cases h with ⟨-, -, ht⟩ | ⟨-, e, -, ht⟩ | ⟨herr, hcheck, hw, -⟩ | ⟨-, -, -, ht⟩
    · simpa [hfree] using congrArg State.port ht
    · simpa [hfree] using congrArg State.port ht
    · exact blocked_of_waits (executes_iff.2 ⟨.inl herr, hcheck⟩) hw
    · simpa [hfree] using congrArg State.port ht
  · intro h
    have hw := waits_of_blocked hq h
    rcases exec_of_executes (executes_of_blocked h) with ⟨-, hi⟩ | ⟨hw', -⟩
    · exact hi
    · rw [hw] at hw'; cases hw'

end Sys2Proof.Machine
end

section
/-! PROOFS. 20_memory.md R57 to R61: the responses of accesses, the try of a CMD write, and the pending write through a step. -/

namespace Sys2Proof.Machine

/-! ### One try of a CMD write -/

/-- The machine after a CMD write that is not held: the block it leaves, the port free, the response OKAY (R59). -/
def State.completed (s : State) (b : Block) : State :=
  { s with port := .free, blk := b, responses := s.responses ++ [⟨.okay, none⟩] }

/-- The word `w` is held: its command passed its checks and must wait (R60). -/
def Waits (w : Word) (s : State) : Prop :=
  ∃ i, decode w = .ok i ∧ executes i s.blk = true ∧ commandWaits i s.cfg.outqDepth s.blk = true

/-- R60: on an empty queue no word is held. -/
theorem not_waits_of_empty {w : Word} {s : State} (h5 : 5 ≤ s.cfg.outqDepth) (hq : s.blk.outq = []) : ¬ Waits w s := by
  rintro ⟨i, -, hx, hw⟩
  have hb := blocked_of_waits hx hw
  rw [not_blocked_of_empty h5 hq] at hb
  cases hb

/-- `Perform(w)` changes the block alone, or puts `w` itself on the port and changes nothing else. -/
theorem perform_completes_or_holds {w : Word} {s u : State} (h : perform w s = .next u) :
    (∃ b, u = s.withBlock b) ∨ (Waits w s ∧ u = { s with port := .held w }) := by
  rcases perform_cases h with ⟨-, -, rfl⟩ | ⟨e, -, rfl⟩ | ⟨i, hd, hi⟩
  · exact .inl ⟨_, rfl⟩
  · exact .inl ⟨_, rfl⟩
  · rcases exec_cases hi with ⟨-, -, rfl⟩ | ⟨-, e, -, rfl⟩ | ⟨herr, hcheck, hw, rfl⟩ | ⟨-, -, -, rfl⟩
    · exact .inl ⟨_, rfl⟩
    · exact .inl ⟨_, rfl⟩
    · exact .inr ⟨⟨i, hd, executes_iff.2 ⟨.inl herr, hcheck⟩, hw⟩, by rw [State.hold, encode_of_decode hd]⟩
    · exact .inl ⟨_, rfl⟩

/-- A try of `w` completes with the block `Perform(w)` leaves, or holds `w` and changes nothing else. -/
theorem tryCommand_completes_or_holds (w : Word) (s : State) :
    ∃ u, perform w { s with port := .free } = .next u ∧
      ((u = { s with port := .free, blk := u.blk } ∧ tryCommand w s = .next (s.completed u.blk)) ∨
       (Waits w s ∧ u = { s with port := .held w } ∧ tryCommand w s = .next { s with port := .held w })) := by
  obtain ⟨u, hu⟩ := perform_answers w { s with port := .free }
  refine ⟨u, hu, ?_⟩
  rcases perform_completes_or_holds hu with ⟨b, rfl⟩ | ⟨hw, rfl⟩
  · exact .inl ⟨rfl, by rw [tryCommand, hu]; rfl⟩
  · exact .inr ⟨hw, rfl, by rw [tryCommand, hu]; rfl⟩

/-! ### Accesses -/

theorem hostAccess_read {s : State} {width : Width} {addr off : Nat} (ho : windowOffset s.cfg addr = some off) :
    hostAccess (.read width addr) s = .next (s.respond (readResponse (s.blk.readValue width off))) := by
  simp [hostAccess, ho, busRead]

theorem hostAccess_cmd {s : State} {addr : Nat} (v : Word) (ho : windowOffset s.cfg addr = some cmdOffset) :
    hostAccess (.write .w32 addr v) s = tryCommand v s := by
  simp [hostAccess, ho, busWrite]

theorem hostAccess_meta {s : State} {addr : Nat} (v : Word) (ho : windowOffset s.cfg addr = some frmMetaOffset) :
    hostAccess (.write .w32 addr v) s = .next ((s.withBlock (s.blk.setMeta v)).respond ⟨.okay, none⟩) := by
  simp [hostAccess, ho, busWrite, cmdOffset, frmMetaOffset, writeResponse]

theorem hostAccess_write_error {s : State} {width : Width} {addr off : Nat} (v : Word)
    (ho : windowOffset s.cfg addr = some off) (ha : ¬ AdmittedWrite width off) :
    hostAccess (.write width addr v) s = .next (s.respond ⟨.error, none⟩) := by
  have hcmd : ¬(width = .w32 ∧ off = cmdOffset) := fun h => ha ⟨h.1, .inl h.2⟩
  have hmeta : ¬(width = .w32 ∧ off = frmMetaOffset) := fun h => ha ⟨h.1, .inr h.2⟩
  simp [hostAccess, ho, busWrite, hcmd, hmeta, writeResponse]

/-- Settles O29: a read is admitted exactly when it has a value; of the two admitted writes only that of CMD may lack its response. -/
theorem errorResponsesChangeNothing : Obligations.ErrorResponsesChangeNothing := by
  intro s width addr off v ho
  refine ⟨fun ha => ?_, fun ha => ?_, hostAccess_write_error v ho, ?_⟩
  · have hnone : s.blk.readValue width off = none := by
      rwa [← s.blk.readValue_isSome, Option.not_isSome_iff_eq_none] at ha
    rw [hostAccess_read ho, hnone]; rfl
  · obtain ⟨x, hx⟩ := Option.isSome_iff_exists.1 ((s.blk.readValue_isSome width off).2 ha)
    exact ⟨x, hx, by rw [hostAccess_read ho, hx]; rfl⟩
  · rintro ⟨rfl, rfl | rfl⟩
    · obtain ⟨u, -, ⟨-, ht⟩ | ⟨-, -, ht⟩⟩ := tryCommand_completes_or_holds v s
      · exact ⟨_, (hostAccess_cmd v ho).trans ht, fun _ => rfl⟩
      · exact ⟨_, (hostAccess_cmd v ho).trans ht, by simp⟩
    · exact ⟨_, hostAccess_meta v ho, fun _ => rfl⟩

/-- Settles O33: the write is one try of its word, which completes with OKAY or holds the word. -/
theorem completedCommandWritesAreOkay : Obligations.CompletedCommandWritesAreOkay := by
  intro s w
  have hcmd : hostAccess (cmdWrite s.cfg w) s = tryCommand w s :=
    hostAccess_cmd w (windowOffset_base_add s.cfg (by decide))
  rw [hcmd]
  obtain ⟨u, hu, ⟨he, ht⟩ | ⟨-, rfl, ht⟩⟩ := tryCommand_completes_or_holds w s
  · refine ⟨_, u, hu, ht, fun _ => ?_, fun hp => absurd (congrArg State.port he) hp⟩
    rw [he]; rfl
  · exact ⟨_, _, hu, ht, by simp, fun _ => ⟨rfl, rfl, rfl, rfl⟩⟩

/-- Settles O32: the write of FRM_META, its read back, and the narrow writes that are not admitted. -/
theorem metaReadsBackAsWritten : Obligations.MetaReadsBackAsWritten := by
  intro s v
  have ho : windowOffset s.cfg (s.cfg.baseAddr + 0x010) = some frmMetaOffset := windowOffset_base_add s.cfg (by decide)
  exact ⟨_, hostAccess_meta v ho, rfl, rfl, fun width hw => hostAccess_write_error v ho fun h => hw h.1⟩

/-! ### The pending write through a step -/

/-- R60, log entry 5: a try that is due is the next step but for reset; it uses up a host's turn and leaves a sink's. -/
theorem step_of_retry {s : State} {w : Word} (hp : s.port = .retry w) (hr : resetsNext s = false) :
    step s = tryCommand w { s with turns := if (nextTurn s.turns).1 = .host then (nextTurn s.turns).2 else s.turns } := by
  obtain ⟨cfg, blk, _, hostq, turns, tx, responses⟩ := s
  cases hp
  unfold step nextStep
  rcases hn : nextTurn turns with ⟨x, ts⟩
  cases x with
  | host => simp
  | sink => simp
  | reset => simp [resetsNext, hn] at hr

/-- Settles O37: a held write leaves the host nothing to do, and the due try is the next step. -/
theorem heldWriteBlocksThePort : Obligations.HeldWriteBlocksThePort := by
  intro s w hr
  refine ⟨fun hp hn => ?_, fun hp hn => ?_, fun hp hn => ?_⟩
  · unfold step nextStep
    rcases hx : nextTurn s.turns with ⟨x, ts⟩
    obtain rfl : x = .host := by simpa [hx] using hn
    simp [hp, hostTurn]
  · rw [step_of_retry hp hr, hn]; rfl
  · rw [step_of_retry hp hr, hn]; rfl

theorem portOk_of_free {s : State} (h : s.port = .free) : PortOk s := by
  intro w hw
  simp [h, Port.word?] at hw

/-- A write whose try has come back held is one that waits, so it is blocked. -/
theorem portOk_of_try {w : Word} {s t : State} (h : tryCommand w s = .next t) : PortOk t := by
  obtain ⟨u, -, ⟨-, ht⟩ | ⟨⟨i, hd, hx, hw⟩, -, ht⟩⟩ := tryCommand_completes_or_holds w s
  · cases h.symm.trans ht
    exact portOk_of_free rfl
  · cases h.symm.trans ht
    intro v hv
    obtain rfl : w = v := by simpa [Port.word?] using hv
    exact ⟨i, hd, hx, fun _ => blocked_of_waits hx hw⟩

/-- A take makes the held write's try due; whether its command is executed does not depend on the queue. -/
theorem PortOk.take {s : State} (h : PortOk s) : PortOk (sinkTake s) := by
  unfold sinkTake
  split
  · exact h
  · next b q _ =>
    intro w hw
    have hwake : s.port.wake.word? = s.port.word? := by cases s.port <;> rfl
    obtain ⟨i, hd, hx, -⟩ := h w (hwake ▸ hw)
    refine ⟨i, hd, (executes_with_outq i s.blk q).trans hx, fun hheld => ?_⟩
    cases hp : s.port <;> simp [hp, Port.wake] at hheld

/-- Settles O48: a step frees the port, tries a word, takes a byte, or leaves port and block as they are. -/
theorem stepKeepsThePendingWrite : Obligations.StepKeepsThePendingWrite := by
  intro s t hs h
  rcases step_cases h with ⟨ts, -, rfl⟩ | ⟨x, ts, w, -, -, -, h⟩ | ⟨ts, -, -, rfl⟩ | ⟨ts, -, -, rfl⟩ |
    ⟨ts, a, q, -, hp, -, h⟩
  · exact portOk_of_free rfl
  · exact portOk_of_try h
  · exact PortOk.take (s := { s with turns := ts }) hs
  · exact hs
  · rcases hostAccess_cases h with ⟨_, _, _, -, -, rfl⟩ | ⟨_, _, -, -, h⟩ | ⟨_, _, -, -, rfl⟩ |
      ⟨_, _, _, _, -, -, -, rfl⟩
    · exact portOk_of_free hp
    · exact portOk_of_try h
    · exact portOk_of_free hp
    · exact portOk_of_free hp

/-! ### A held write completes -/

theorem runCommand_with_turns (i : Instr) (check : Block → Option CmdError) (waits : Nat → Block → Bool)
    (effect : Block → Block) {s u : State} (h : runCommand i check waits effect s = .next u) (ts : List Turn) :
    runCommand i check waits effect { s with turns := ts } = .next { u with turns := ts } := by
  rcases runCommand_cases h with ⟨he, rfl⟩ | ⟨he, e, hc, rfl⟩ | ⟨he, hc, hw, rfl⟩ | ⟨he, hc, hw, rfl⟩
  · exact runCommand_discard he
  · rw [Block.raise_of_clear he]; exact runCommand_reject he hc
  · exact runCommand_hold he hc hw
  · exact runCommand_effect he hc hw

/-- The turns to come do not matter to a command. -/
theorem exec_with_turns {i : Instr} {s u : State} (h : exec i s = .next u) (ts : List Turn) :
    exec i { s with turns := ts } = .next { u with turns := ts } := by
  cases hx : exemptOp i.opcode.bits with
  | false =>
    rw [exec_eq_runCommand hx] at h ⊢
    exact runCommand_with_turns _ _ _ _ h ts
  | true =>
    cases i with
    | nop | clrErr => cases h; rfl
    | _ => cases hx

theorem perform_with_turns {w : Word} {s u : State} (h : perform w s = .next u) (ts : List Turn) :
    perform w { s with turns := ts } = .next { u with turns := ts } := by
  unfold perform at h ⊢
  split at h
  · next hd => cases h; exact if_pos hd
  · next hd =>
    rw [if_neg hd]
    split at h
    · cases h; rfl
    · exact exec_with_turns h ts

/-- Settles O38: the due try is the next step, and on an empty queue it cannot be held. -/
theorem pendingWriteCompletesOnAnEmptyQueue : Obligations.PendingWriteCompletesOnAnEmptyQueue := by
  rintro s w ⟨-, h5, -⟩ hp hq hr
  obtain ⟨ts, hstep⟩ : ∃ ts, step s = tryCommand w { s with turns := ts } := ⟨_, step_of_retry hp hr⟩
  rw [hstep]
  obtain ⟨u, hu, ⟨-, ht⟩ | ⟨hw, -, -⟩⟩ := tryCommand_completes_or_holds w { s with turns := ts }
  · exact ⟨_, ht, rfl, rfl, _, perform_with_turns hu s.turns, rfl⟩
  · exact absurd hw (not_waits_of_empty h5 hq)

theorem perform_of_executes {w : Word} {i : Instr} (hd : decode w = .ok i) {s : State} (hx : executes i s.blk = true) :
    perform w s = exec i s := by
  have hrun : ¬((s.blk.err && !exemptOp (opField w)) = true) := by
    rw [opField_of_decode hd]
    rcases (executes_iff.1 hx).1 with h | h <;> simp [h]
  simp only [perform, if_neg hrun, hd]

/-- A try of a command that is executed holds its word if the command must wait, and otherwise completes with its effect. -/
theorem tryCommand_of_executes {w : Word} {i : Instr} (hd : decode w = .ok i) {s : State} (hx : executes i s.blk = true) :
    (commandWaits i s.cfg.outqDepth s.blk = true ∧ tryCommand w s = .next { s with port := .held w }) ∨
    (commandWaits i s.cfg.outqDepth s.blk = false ∧ tryCommand w s = .next (s.completed (commandEffect i s.blk))) := by
  have hx : executes i { s with port := .free }.blk = true := hx
  rcases exec_of_executes hx with ⟨hw, hi⟩ | ⟨hw, hi⟩
  · exact .inl ⟨hw, by rw [tryCommand, perform_of_executes hd hx, hi, State.hold, encode_of_decode hd]; rfl⟩
  · exact .inr ⟨hw, by rw [tryCommand, perform_of_executes hd hx, hi]; rfl⟩

/-- The machine after the sink has taken `m` bytes, a turn for each, and nothing else has happened. -/
def State.drained (s : State) (m : Nat) : State :=
  { s with
    blk := { s.blk with outq := s.blk.outq.drop m }
    turns := s.turns.drop m
    tx := s.tx ++ s.blk.outq.take m }

theorem State.drained_drained (s : State) (k m : Nat) : (s.drained k).drained m = s.drained (k + m) := by
  simp [State.drained, List.take_add]

/-- 42_framer.md R160, R60: a take while `w` is held makes its try due. -/
theorem step_take_of_held {s : State} {w : Word} {n : Nat} (hp : s.port = .held w) (hq : s.blk.outq ≠ [])
    (ht : s.turns = List.replicate (n + 1) .sink) : step s = .next { s.drained 1 with port := .retry w } := by
  obtain ⟨b, q, hq⟩ := List.exists_cons_of_ne_nil hq
  simp [step, nextStep, nextTurn, ht, List.replicate_succ, hp, sinkTake, hq, Port.wake, State.drained]

/-- With only sink's turns listed, or none, the due try is the next step and uses up no turn. -/
theorem step_of_retry_sinks {s : State} {w : Word} {n : Nat} (hp : s.port = .retry w)
    (ht : s.turns = List.replicate n .sink) : step s = tryCommand w s := by
  have hr : resetsNext s = false := by cases n <;> simp [resetsNext, nextTurn, ht, List.replicate_succ]
  have hsame : (if (nextTurn s.turns).1 = .host then (nextTurn s.turns).2 else s.turns) = s.turns := by
    cases n <;> simp [nextTurn, ht, List.replicate_succ]
  rw [step_of_retry hp hr, hsame]

/-- R60 with the sink progress of 92_eei_decisions.md D14, by the number of bytes queued: a take, then a try that completes or
leaves the write held with one byte fewer. -/
theorem run_of_held {w : Word} {i : Instr} (hd : decode w = .ok i) {s : State} {n : Nat} (h5 : 5 ≤ s.cfg.outqDepth)
    (hp : s.port = .held w) (hb : blocked i s.cfg.outqDepth s.blk = true) (ht : s.turns = List.replicate n .sink)
    (hn : s.blk.outq.length ≤ n) : ∃ m, m ≤ s.blk.outq.length ∧
      Host.Core.run Sys2Proof.core (2 * m) s = .next ((s.drained m).completed (commandEffect i (s.drained m).blk)) := by
  induction hl : s.blk.outq.length generalizing s n with
  | zero =>
    rw [not_blocked_of_empty h5 (List.length_eq_zero_iff.1 hl)] at hb
    cases hb
  | succ l ih =>
    obtain ⟨n, rfl⟩ : ∃ k, n = k + 1 := ⟨n - 1, by omega⟩
    have htake := step_take_of_held hp (List.ne_nil_of_length_eq_add_one hl) ht
    have hturns : (s.drained 1).turns = List.replicate n .sink := by simp [State.drained, ht]
    have hlen : (s.drained 1).blk.outq.length = l := by simp [State.drained, hl]
    have htry := step_of_retry_sinks (s := { s.drained 1 with port := .retry w }) rfl hturns
    have hx : executes i (s.drained 1).blk = true := (executes_with_outq i s.blk _).trans (executes_of_blocked hb)
    rcases tryCommand_of_executes hd (s := { s.drained 1 with port := .retry w }) hx with ⟨hw, hheld⟩ | ⟨-, hdone⟩
    · obtain ⟨m, hm, hrun⟩ := ih (s := { s.drained 1 with port := .held w }) h5 rfl (blocked_of_waits hx hw) hturns
        (by rw [hl] at hn; show (s.drained 1).blk.outq.length ≤ n; omega) hlen
      refine ⟨1 + m, by omega, ?_⟩
      rw [← State.drained_drained, show 2 * (1 + m) = 2 * m + 1 + 1 by omega, run_succ_of_step htake,
        run_succ_of_step (htry.trans hheld), hrun]
      rfl
    · refine ⟨1, by omega, ?_⟩
      rw [show 2 * 1 = 0 + 1 + 1 from rfl, run_succ_of_step htake, run_succ_of_step (htry.trans hdone)]
      rfl

/-- Settles O39: a held write is blocked, so takes and tries run it to its execution. -/
theorem heldWriteCompletesUnderSinkProgress : Obligations.HeldWriteCompletesUnderSinkProgress := by
  rintro s w n ⟨-, h5, -⟩ hs hp ht hn
  obtain ⟨i, hd, -, hblocked⟩ := hs w (by rw [hp]; rfl)
  obtain ⟨m, hm, hrun⟩ := run_of_held hd h5 hp (hblocked hp) ht hn
  exact ⟨i, m, hd, hm, hrun⟩

end Sys2Proof.Machine
end

section
/-! PROOFS. 30_encoding.md R81 to R90: the rows of the opcode table, decode and encode as inverses, and the assembler's words. -/

namespace Sys2Proof

/-! ### The decoder, by the rows of the table -/

/-- R86: a word whose OP names no opcode. -/
theorem decode_of_illegalOp {w : Word} (h : ∀ o : Opcode, opField w ≠ o.bits) : decode w = .error .illegalOp := by
  rw [decode, Opcode.ofBits_eq_none.2 h]

/-- R91: a word that passes the two format checks of an opcode. -/
theorem decode_of_accepted {o : Opcode} {w : Word} (ho : opField w = o.bits) (hm : w &&& o.mbz = 0#32) :
    decode w = .ok (o.operands w) := by
  simp [decode, ho, hm]

/-- R85: the mask holds the whole field OP, so a word that matches a row carries the row's OP. -/
theorem opField_of_masked {o : Opcode} {w : Word} (h : w &&& o.maskBits = o.matchBits) : opField w = o.bits := by
  have hmask : opField (w &&& o.maskBits) = opField w &&& opField o.maskBits := BitVec.extractLsb'_and
  have hones : opField o.maskBits = BitVec.allOnes 8 := by cases o <;> decide
  have hop : opField o.matchBits = o.bits := by cases o <;> decide
  rw [← hop, ← h, hmask, hones, BitVec.and_allOnes]

/-- R85: the mask holds MBZ and the match has no bit there, so a word that matches a row has its reserved bits zero. -/
theorem reserved_of_masked {o : Opcode} {w : Word} (h : w &&& o.maskBits = o.matchBits) : w &&& o.mbz = 0#32 := by
  have hmbz : o.maskBits &&& o.mbz = o.mbz := by cases o <;> decide
  have hzero : o.matchBits &&& o.mbz = 0#32 := by cases o <;> decide
  rw [← hmbz, ← BitVec.and_assoc, h, hzero]

/-- R85: a word that matches a row decodes to the row's command, its operands taken from the word. -/
theorem decode_of_masked {o : Opcode} {w : Word} (h : w &&& o.maskBits = o.matchBits) : decode w = .ok (o.operands w) :=
  decode_of_accepted (opField_of_masked h) (reserved_of_masked h)

/-- R85: the words that decode are those that match a row of the table. -/
theorem decodes_iff_masked (w : Word) : (∃ i, decode w = .ok i) ↔ ∃ o : Opcode, w &&& o.maskBits = o.matchBits := by
  constructor
  · rintro ⟨i, hi⟩
    rcases decode_cases w with ⟨-, h⟩ | ⟨o, -, -, h⟩ | ⟨o, ho, hm, -⟩
    · rw [hi] at h; cases h
    · rw [hi] at h; cases h
    · exact ⟨o, masked_of_accepted ho hm⟩
  · rintro ⟨o, h⟩
    exact ⟨_, decode_of_masked h⟩

/-- R84: a property of some opcode, opcode by opcode. -/
theorem Opcode.exists_iff {p : Opcode → Prop} : (∃ o, p o) ↔
    p .nop ∨ p .crcInit ∨ p .crcByte ∨ p .recBegin ∨ p .recPut ∨ p .recDirty ∨ p .recSeal ∨ p .frmOpen ∨ p .frmByte ∨
      p .frmClose ∨ p .clrErr := by
  have hall : (∃ o, p o) ↔ ∃ o ∈ Opcode.all, p o := by simp [Opcode.mem_all]
  simp [hall, Opcode.all]

/-! ### The encoder -/

/-- R85: the word of every command matches its row. -/
theorem encode_masked (i : Instr) : encode i &&& i.opcode.maskBits = i.opcode.matchBits := by
  cases i with
  | nop => exact Laws.EncodeRow.nop
  | crcInit => exact Laws.EncodeRow.crcInit
  | crcByte d => exact Laws.EncodeRow.crcByte d
  | recBegin => exact Laws.EncodeRow.recBegin
  | recPut f d => exact Laws.EncodeRow.recPut f d
  | recDirty v => exact Laws.EncodeRow.recDirty v
  | recSeal => exact Laws.EncodeRow.recSeal
  | frmOpen => exact Laws.EncodeRow.frmOpen
  | frmByte d => exact Laws.EncodeRow.frmByte d
  | frmClose => exact Laws.EncodeRow.frmClose
  | clrErr => exact Laws.EncodeRow.clrErr

/-- R82: the operands of a command's word are the command's. -/
theorem operands_encode (i : Instr) : i.opcode.operands (encode i) = i := by
  cases i with
  | crcByte | recPut | recDirty | frmByte => simp [encode, Instr.opcode, Opcode.operands]
  | _ => rfl

/-- R81: a command without the field F has the data beside its match. -/
theorem pack_selector_zero (o : Opcode) (d : Byte) : pack o 0#3 d = o.matchBits ||| d.setWidth 32 := by
  simp [pack, Opcode.matchBits]

/-! ### The statements about words -/

/-- Settles O1: a command's word matches its row, and so decodes to the operands it was packed from. -/
theorem encodeThenDecodeIsIdentity : Obligations.EncodeThenDecodeIsIdentity := by
  intro i
  rw [decode_of_masked (encode_masked i), operands_encode]

/-- Settles O2: under its row's mask the word is the match, outside it the operands. -/
theorem decodedWordIsItsEncoding : Obligations.DecodedWordIsItsEncoding := fun _ _ => encode_of_decode

/-- Settles O3: the eleven pairs of literals are the rows' masks and matches. -/
theorem decodeAcceptsExactlyTheTable : Obligations.DecodeAcceptsExactlyTheTable := fun w =>
  (decodes_iff_masked w).trans Opcode.exists_iff

/-- Settles O5: the words written out are the encodings of their commands. -/
theorem specWordsDecode : Obligations.SpecWordsDecode := by
  have h := encodeThenDecodeIsIdentity
  exact ⟨h .nop, h .crcInit, h (.crcByte 0x31#8), h .recBegin, h (.recPut 1#3 0x78#8), h (.recPut 5#3 0#8), h (.recDirty 1#1),
    h .recSeal, h .frmOpen, h (.frmByte 0x41#8), h .frmClose, h .clrErr⟩

/-- Settles O59: each word is its opcode's match with the operands beside it, and FRM.TOKEN expands by computation. -/
theorem assemblerWordsAndExpansions : Obligations.AssemblerWordsAndExpansions := by
  refine ⟨fun d => ⟨pack_selector_zero .crcByte d, pack_selector_zero .frmByte d⟩, fun f d => rfl, fun v => ?_, fun t => rfl⟩
  have hv : (v.setWidth 8).setWidth 32 = v.setWidth 32 := by revert v; decide
  rw [← hv]
  exact pack_selector_zero .recDirty (v.setWidth 8)

end Sys2Proof
end

section
/-! PROOFS. 30_encoding.md R86, R91, 20_memory.md R59, R62: what performing a word is, and the step that performs it. -/

namespace Sys2Proof.Machine

/-! ### Performing a word -/

/-- R91, 60_exceptions.md R203: with no error latched, a word that fails a format check is rejected. -/
theorem perform_of_decode_error {w : Word} {e : DecodeError} {s : State} (he : s.blk.err = false)
    (hd : decode w = .error e) : perform w s = .next (s.rejected (errorOfDecode e).code) := by
  simp [perform, he, hd, Block.raise_of_clear he, State.rejected]

/-- R91: performing a word that decodes is the meaning of its command, which an error latch discards as `Perform` does. -/
theorem perform_of_decode {w : Word} {i : Instr} (hd : decode w = .ok i) (s : State) : perform w s = exec i s := by
  unfold perform
  split
  · next hdiscard =>
    rw [opField_of_decode hd, Bool.and_eq_true, Bool.not_eq_true'] at hdiscard
    obtain ⟨herr, hx⟩ := hdiscard
    rw [exec_eq_runCommand hx, runCommand_discard herr]
  · rw [hd]

/-- R86: no opcode has its OP in the four illegal ranges. -/
theorem ne_bits_of_illegal_range {b : BitVec 8} (h : (0x03#8 ≤ b ∧ b ≤ 0x0F#8) ∨ (0x14#8 ≤ b ∧ b ≤ 0x1F#8) ∨
    (0x23#8 ≤ b ∧ b ≤ 0x7E#8) ∨ 0x80#8 ≤ b) (o : Opcode) : b ≠ o.bits := by
  rintro rfl
  revert h
  cases o <;> decide

/-- Settles O4: such a word fails the first format check. -/
theorem illegalOpcodesAreRejected : Obligations.IllegalOpcodesAreRejected := by
  intro w s h
  have hd := decode_of_illegalOp (ne_bits_of_illegal_range h)
  exact ⟨hd, fun he => perform_of_decode_error he hd⟩

/-! ### The step that performs a word -/

/-- 20_memory.md R62: the host's next access is the next step, at the state with the access and the turn taken off. -/
theorem step_of_nextAccess {s : State} {a : Access} (hp : s.port = .free) (ha : nextAccess s = some a) :
    step s = hostAccess a { s with hostq := s.hostq.tail, turns := (nextTurn s.turns).2 } := by
  obtain ⟨hturn, hq⟩ := nextAccess_head hp ha
  unfold step nextStep
  rcases hn : nextTurn s.turns with ⟨x, ts⟩
  obtain rfl : x = .host := by simpa [hn] using hturn
  rw [hq]
  simp [hp, hostTurn]

theorem hostAccess_cmdWrite (w : Word) (s : State) : hostAccess (cmdWrite s.cfg w) s = tryCommand w s :=
  hostAccess_cmd w (windowOffset_base_add s.cfg (by decide))

/-- 20_memory.md R59: a try of a word that decodes is the meaning of its command, acknowledged if it completes. -/
theorem tryCommand_of_decode {w : Word} {i : Instr} (hd : decode w = .ok i) {s t : State} (hp : s.port = .free)
    (h : exec i s = .next t) : tryCommand w s = .next (acknowledge t) := by
  have hs : { s with port := .free } = s := by rw [← hp]
  rw [tryCommand, hs, perform_of_decode hd, h]

/-- Settles O41: the next step is the host's access, and a CMD write is one try of its word. -/
theorem stepRunsTheDecodedCommand : Obligations.StepRunsTheDecodedCommand := by
  refine ⟨fun _ _ => step_of_nextAccess, fun s w i hp ha hd => ?_⟩
  obtain ⟨t, ht⟩ := exec_answers i { s with hostq := s.hostq.tail, turns := (nextTurn s.turns).2 }
  refine ⟨t, ht, ?_⟩
  calc step s
    _ = hostAccess (cmdWrite s.cfg w) { s with hostq := s.hostq.tail, turns := (nextTurn s.turns).2 } :=
      step_of_nextAccess hp ha
    _ = tryCommand w { s with hostq := s.hostq.tail, turns := (nextTurn s.turns).2 } := hostAccess_cmdWrite w _
    _ = .next (acknowledge t) := tryCommand_of_decode hd hp ht

end Sys2Proof.Machine
end

section
/-! PROOFS. 40_crc.md R101 to R106: the CRC engine's commands, and the algebra of the CRC. -/

namespace Sys2Proof.Machine

/-! ### The commands -/

/-- R103: with no error latched, CRC_INIT has its effect. -/
theorem exec_crcInit {s : State} (he : s.blk.err = false) : exec .crcInit s = .next (s.withBlock (crcInitEffect s.blk)) :=
  exec_effect (.inl he) rfl rfl

/-- R104: with no error latched, CRC_BYTE has its effect. -/
theorem exec_crcByte {s : State} (he : s.blk.err = false) (d : Byte) :
    exec (.crcByte d) s = .next (s.withBlock (crcByteEffect d s.blk)) :=
  exec_effect (.inl he) rfl rfl

/-- R34, R103: CRC_OUT reads 0 after CRC_INIT. -/
@[simp] theorem crcInitEffect_crcOut (b : Block) : (crcInitEffect b).crcOut = 0#32 := BitVec.xor_self

/-- Settles O10: the effect of CRC_INIT, and the accumulator XORed with its own value. -/
theorem crcInitRestartsTheAccumulator : Obligations.CrcInitRestartsTheAccumulator := fun s he =>
  ⟨_, exec_crcInit he, rfl, crcInitEffect_crcOut s.blk⟩

/-- Settles O11: the effect of CRC_BYTE, whose byte step is the eight bit steps written out. -/
theorem crcByteFeedsOneByte : Obligations.CrcByteFeedsOneByte := fun d _ he => exec_crcByte he d

/-! ### Runs of CRC_BYTE -/

/-- A run goes on from the state a completed command answers. -/
theorem runCommands_cons_of_exec {i : Instr} {s t : State} (h : exec i s = .next t) (is : List Instr) :
    runCommands (i :: is) s = runCommands is t := by
  rw [runCommands, h]

/-- R104: CRC_BYTE for every byte of a sequence feeds the sequence. -/
theorem runCommands_crcBytes (bs : List Byte) {s : State} (he : s.blk.err = false) :
    runCommands (crcBytes bs) s = .next (s.withBlock { s.blk with acc := crcAcc s.blk.acc bs }) := by
  induction bs generalizing s with
  | nil => rfl
  | cons d bs ih => exact (runCommands_cons_of_exec (exec_crcByte he d) _).trans (ih he)

/-- R90: the commands of fields one after another are those of their concatenation. -/
theorem flatMap_crcBytes (fields : List (List Byte)) : fields.flatMap crcBytes = crcBytes fields.flatten := by
  rw [crcBytes, List.map_flatten, List.flatMap_def]
  rfl

/-- Settles O49: after CRC_INIT, the fields' commands are one run of CRC_BYTE over the concatenation. -/
theorem crcOverConcatenatedFields : Obligations.CrcOverConcatenatedFields := by
  intro fields s he
  refine ⟨_, ?_, rfl, rfl⟩
  rw [flatMap_crcBytes, runCommands_cons_of_exec (exec_crcInit he)]
  exact runCommands_crcBytes fields.flatten he

/-! ### The algebra of the byte step -/

/-- R106: the accumulator over a concatenation. -/
theorem crcAcc_append (a : Word) (s t : List Byte) : crcAcc a (s ++ t) = crcAcc (crcAcc a s) t := List.foldl_append

/-- R101: the bits of a bit step: the next higher bit, flipped where the low bit was 1 and the constant has a 1. -/
theorem getLsbD_crcBit (a : Word) (i : Nat) :
    (crcBit a).getLsbD i = (a.getLsbD (i + 1) ^^ (a.getLsbD 0 && crcPoly.getLsbD i)) := by
  rw [crcBit]
  cases a.getLsbD 0 <;> simp [Nat.add_comm 1 i]

/-- A bit step is linear over GF(2), since each of its bits is. -/
theorem crcBit_xor (a b : Word) : crcBit (a ^^^ b) = crcBit a ^^^ crcBit b := by
  refine BitVec.eq_of_getLsbD_eq fun i _ => ?_
  simp only [getLsbD_crcBit, BitVec.getLsbD_xor, Bool.and_xor_distrib_right, Bool.xor_assoc, Bool.xor_left_comm]

theorem crcBits_xor (n : Nat) (a b : Word) : crcBits n (a ^^^ b) = crcBits n a ^^^ crcBits n b := by
  induction n generalizing a b with
  | zero => rfl
  | succ n ih => rw [crcBits, crcBit_xor, ih, crcBits, crcBits]

/-- R106: the byte step is linear over GF(2). -/
theorem crcStep_xor (a₁ a₂ : Word) (b₁ b₂ : Byte) :
    crcStep (a₁ ^^^ a₂) (b₁ ^^^ b₂) = crcStep a₁ b₁ ^^^ crcStep a₂ b₂ := by
  unfold crcStep
  rw [← crcBits_xor, BitVec.setWidth_xor]
  congr 1
  ac_rfl

/-- The highest bit after a bit step is the lowest bit before it, since the constant's highest bit is 1. -/
theorem getLsbD_crcBit_high (a : Word) : (crcBit a).getLsbD 31 = a.getLsbD 0 := by
  have hpoly : crcPoly.getLsbD 31 = true := by decide
  have hout : a.getLsbD 32 = false := BitVec.getLsbD_of_ge a 32 (Nat.le_refl 32)
  rw [getLsbD_crcBit, hpoly, hout, Bool.and_true, Bool.false_xor]

/-- A bit step loses no bit: its highest bit gives back the low bit, and with it every other one. -/
theorem crcBit_injective : Function.Injective crcBit := by
  intro a b h
  have hlow : a.getLsbD 0 = b.getLsbD 0 := by rw [← getLsbD_crcBit_high, h, getLsbD_crcBit_high]
  refine BitVec.eq_of_getLsbD_eq fun i _ => ?_
  cases i with
  | zero => exact hlow
  | succ i =>
    have hi : (crcBit a).getLsbD i = (crcBit b).getLsbD i := by rw [h]
    rwa [getLsbD_crcBit, getLsbD_crcBit, hlow, Bool.xor_left_inj] at hi

theorem crcBits_injective (n : Nat) : Function.Injective (crcBits n) := by
  induction n with
  | zero => exact Function.injective_id
  | succ n ih => exact ih.comp crcBit_injective

/-- R106: for a fixed byte the byte step is a bijection, being injective on a finite type. -/
theorem crcStep_bijective (b : Byte) : Function.Bijective fun a : Word => crcStep a b := by
  have : Finite Word := .of_injective BitVec.toFin fun _ _ => BitVec.toFin_inj.1
  refine Finite.injective_iff_bijective.1 ?_
  exact (crcBits_injective 8).comp fun _ _ => (BitVec.xor_left_inj _).1

/-- Settles O50: the five facts, CRC_OUT by the rule of its read (20_memory.md R56) and the four byte steps by computation. -/
theorem crcAlgebra : Obligations.CrcAlgebra := by
  refine ⟨crcAcc_append, ⟨BitVec.xor_self, fun s he => ⟨_, exec_crcInit he, ?_⟩⟩, by decide, crcStep_xor, crcStep_bijective⟩
  obtain ⟨-, -, hout, -, -⟩ := readsReturnTheRegisters (crcInitEffect s.blk) .w32 crcOutOffset
  exact hout.trans (congrArg some (crcInitEffect_crcOut s.blk))

end Sys2Proof.Machine
end

section
/-! PROOFS. 41_record.md R120 to R129: what each record command does, and what a sealed record keeps. -/

namespace Sys2Proof.Machine

/-! ### The commands with no error latched -/

/-- A record being built passes REC_STATE (60_exceptions.md R201). -/
theorem needsBuilding_of_building {b : Block} (h : b.rstate = .building) : needsBuilding b = none := if_pos h

@[simp] theorem TextField.ofSelector_selector (x : TextField) : TextField.ofSelector x.selector = some x := by
  cases x <;> rfl

/-- R126: REC_BEGIN has its effect in any record state. -/
theorem exec_recBegin {s : State} (he : s.blk.err = false) :
    exec .recBegin s = .next (s.withBlock (recBeginEffect s.blk)) :=
  exec_effect (.inl he) rfl rfl

/-- R127: REC_PUT with the selector of a string field, while a record is being built. -/
theorem exec_recPut {s : State} (he : s.blk.err = false) (hb : s.blk.rstate = .building) (x : TextField) (d : Byte) :
    exec (.recPut x.selector d) s = .next (s.withBlock (putEffect x d s.blk)) := by
  have hc : commandCheck (.recPut x.selector d) s.blk = none := by
    simp [commandCheck, recPutCheck, needsBuilding_of_building hb]
  have heffect : commandEffect (.recPut x.selector d) s.blk = putEffect x d s.blk := by
    simp [commandEffect, recPutEffect]
  rw [exec_effect (.inl he) hc rfl, heffect]

/-- R128: REC_DIRTY while a record is being built. -/
theorem exec_recDirty {s : State} (he : s.blk.err = false) (hb : s.blk.rstate = .building) (v : BitVec 1) :
    exec (.recDirty v) s = .next (s.withBlock (recDirtyEffect v s.blk)) :=
  exec_effect (.inl he) (needsBuilding_of_building hb) rfl

/-- R129: REC_SEAL while a record is being built. -/
theorem exec_recSeal {s : State} (he : s.blk.err = false) (hb : s.blk.rstate = .building) :
    exec .recSeal s = .next (s.withBlock (recSealEffect s.blk)) :=
  exec_effect (.inl he) (needsBuilding_of_building hb) rfl

/-! ### REC_PUT's three cases (R127) -/

/-- The string field takes no more characters: its string has ended, or it is full. -/
def Block.Closed (b : Block) (x : TextField) : Prop := (b.text x).term = true ∨ (b.text x).len = x.capacity

theorem Block.not_closed_iff {b : Block} {x : TextField} :
    ¬ b.Closed x ↔ (b.text x).term = false ∧ (b.text x).len ≠ x.capacity := by
  simp [Block.Closed]

/-- A byte for a closed field is dropped. -/
theorem putEffect_of_closed {x : TextField} {b : Block} (h : b.Closed x) (d : Byte) : putEffect x d b = b := if_pos h

/-- A NUL ends an open field. -/
theorem putEffect_nul {x : TextField} {b : Block} (h : ¬ b.Closed x) :
    putEffect x 0#8 b = b.setText x ⟨(b.text x).len, true⟩ := if_neg h

/-- Any other byte is one more character of an open field. -/
theorem putEffect_char {x : TextField} {b : Block} (h : ¬ b.Closed x) {d : Byte} (hd : d ≠ 0#8) : putEffect x d b =
    Block.setText { b with record := b.record.write (x.offset + (b.text x).len) d } x ⟨(b.text x).len + 1, false⟩ := by
  rw [← (Block.not_closed_iff.1 h).1]
  exact (if_neg h).trans (if_neg hd)

/-- A write to the record and an update of a string field are independent. -/
theorem Block.setText_with_record (b : Block) (m : Memory) (x : TextField) (t : TextState) :
    Block.setText { b with record := m } x t = { b.setText x t with record := m } := by cases x <;> rfl

/-! ### The statements about single commands -/

/-- Settles O12: the effect of REC_BEGIN, the magic by computation. -/
theorem recBeginStartsAnEmptyRecord : Obligations.RecBeginStartsAnEmptyRecord := fun s he =>
  ⟨_, exec_recBegin he, rfl, rfl, rfl, rfl, fun _ => recBeginEffect_read s.blk, (recordOk_recBegin s.blk).canonical, rfl⟩

/-- Settles O13: the three cases of REC_PUT's effect. -/
theorem recPutAppendsEndsOrDrops : Obligations.RecPutAppendsEndsOrDrops := by
  intro x d s he hb hm
  rw [exec_recPut he hb]
  refine ⟨fun hclosed => ?_, fun ht hl hd => ?_, fun ht hl hd => ⟨_, rfl, ?_⟩⟩
  · rw [putEffect_of_closed hclosed]; rfl
  · rw [hd, putEffect_nul (Block.not_closed_iff.2 ⟨ht, hl⟩)]; rfl
  · rw [putEffect_char (Block.not_closed_iff.2 ⟨ht, hl⟩) hd, Block.setText_with_record]
    exact ⟨Memory.read_write_same hm _ d, fun i hi => Memory.read_write_other _ d hi, Memory.wf_write hm _ d, rfl⟩

/-- Settles O14: a write of one byte to the record. -/
theorem recDirtyStoresTheFlag : Obligations.RecDirtyStoresTheFlag := fun v _ he hb hm =>
  ⟨_, exec_recDirty he hb v, Memory.read_write_same hm _ _, fun _ hi => Memory.read_write_other _ _ hi,
    Memory.wf_write hm _ _, rfl⟩

@[simp] theorem recSealEffect_crcOut (b : Block) : (recSealEffect b).crcOut = crc32 b.payload := rfl

/-- R123: REC_SEAL stores byte `k` of the CRC's four at `REC[67 + k]`. -/
theorem recSealEffect_read_crc {b : Block} (hm : b.record.wf) {k : Nat} (hk : k < 4) :
    (recSealEffect b).record.read (crcOffset + k) = (bytesLE (crc32 b.payload))[k] :=
  Memory.read_writeBytes_inside hm crcOffset (bytesLE (crc32 b.payload)) k hk

/-- R129: REC_SEAL writes no byte outside `REC[67..70]`. -/
theorem recSealEffect_read_other (b : Block) {i : Nat} (h : i < 67 ∨ 70 < i) :
    (recSealEffect b).record.read i = b.record.read i :=
  Memory.read_writeBytes_outside _ _ h

/-- Settles O15: the effect of REC_SEAL, its four bytes one by one. -/
theorem recSealStoresTheCrc : Obligations.RecSealStoresTheCrc := fun s he hb hm =>
  ⟨_, exec_recSeal he hb, rfl, rfl,
    recSealEffect_read_crc hm (k := 0) (by decide), recSealEffect_read_crc hm (k := 1) (by decide),
    recSealEffect_read_crc hm (k := 2) (by decide), recSealEffect_read_crc hm (k := 3) (by decide),
    fun _ => recSealEffect_read_other s.blk, Memory.wf_writeBytes hm _ _, rfl⟩

/-! ### The sealed record -/

/-- REC_PUT's checks passed: the record is being built. -/
theorem building_of_recPutCheck {f : BitVec 3} {b : Block} (h : recPutCheck f b = none) : b.rstate = .building := by
  unfold recPutCheck at h
  split at h
  · cases h
  · exact building_of_needsBuilding h

/-- R124: a command that passes its check and changes the record assembler's state is REC_BEGIN, or the record is being built. -/
theorem recBegin_or_building_of_recordPart_ne {i : Instr} {b : Block} (hc : commandCheck i b = none)
    (h : (commandEffect i b).recordPart ≠ b.recordPart) : i = .recBegin ∨ b.rstate = .building := by
  rcases recordCommand_of_recordPart_ne h with rfl | ⟨f, d, rfl⟩ | ⟨v, rfl⟩ | rfl
  · exact .inl rfl
  · exact .inr (building_of_recPutCheck hc)
  · exact .inr (building_of_needsBuilding hc)
  · exact .inr (building_of_needsBuilding hc)

/-- Settles O24: a change of the record is reset's, REC_BEGIN's, or that of a command which needs a record being built. -/
theorem sealedRecordIsImmutable : Obligations.SealedRecordIsImmutable := by
  intro s t h hsealed hreset hbegin
  have hsame : t.blk.recordPart = s.blk.recordPart := by
    by_contra hne
    rcases commandOnly_recordPart.changed h hne with ⟨hr, -⟩ | ⟨w, i, hw, hd, hc, hb⟩
    · simp [hreset] at hr
    · rcases recBegin_or_building_of_recordPart_ne hc (hb ▸ hne) with rfl | hbuilding
      · exact hbegin w hw hd
      · simp [hsealed] at hbuilding
  obtain ⟨hrecord, hrstate, -⟩ := Block.recordPart_eq_iff.1 hsame
  exact ⟨hrstate.trans hsealed, hrecord⟩

end Sys2Proof.Machine
end

section
/-! PROOFS. 41_record.md R125, R130: the 71 bytes of a record, field by field, and what a reader scans from them. -/

namespace Sys2Proof.Machine

/-! ### The bytes of a string field -/

/-- The `W_f` bytes of a string field (R120). -/
def Block.fieldBytes (b : Block) (f : TextField) : List Byte := b.record.readBytes f.offset f.width

@[simp] theorem Block.length_textBytes (b : Block) (f : TextField) : (b.textBytes f).length = (b.text f).len :=
  Memory.length_readBytes _ _ _

/-- Two ranges one after the other are one range. -/
theorem Memory.readBytes_add (m : Memory) (i n k : Nat) :
    m.readBytes i (n + k) = m.readBytes i n ++ m.readBytes (i + n) k := by
  simp [Memory.readBytes, List.range_add, Nat.add_assoc]

/-- A range that reads 0x00 throughout. -/
theorem Memory.readBytes_eq_replicate {m : Memory} {i n : Nat} (h : ∀ k, k < n → m.read (i + k) = 0#8) :
    m.readBytes i n = List.replicate n 0#8 :=
  List.eq_replicate_iff.2 ⟨m.length_readBytes i n, fun x hx => by
    obtain ⟨k, hk, rfl⟩ := List.mem_map.1 hx
    exact h k (List.mem_range.1 hk)⟩

theorem RecordOk.len_lt_width {b : Block} (h : RecordOk b) (f : TextField) : (b.text f).len < f.width :=
  Nat.lt_of_le_of_lt (h.lengths f) f.capacity_lt_width

/-- R40 item 5: a string field is its characters and then 0x00 up to its end. -/
theorem RecordOk.fieldBytes {b : Block} (h : RecordOk b) (hne : b.rstate ≠ .empty) (f : TextField) :
    b.fieldBytes f = b.textBytes f ++ List.replicate (f.width - (b.text f).len) 0#8 := by
  have hfit : (b.text f).len ≤ f.width := (h.len_lt_width f).le
  have hzero := Memory.readBytes_eq_replicate (m := b.record) (i := f.offset + (b.text f).len)
    (n := f.width - (b.text f).len) fun k hk => by
      rw [Nat.add_assoc]
      exact h.padded hne f _ (by omega) (by omega)
  rw [← hzero, Block.textBytes, ← Memory.readBytes_add, Nat.add_sub_cancel' hfit]
  rfl

/-- R40 item 5: no character of a string field is 0x00. -/
theorem RecordOk.textBytes_ne_zero {b : Block} (h : RecordOk b) (hne : b.rstate ≠ .empty) {f : TextField} {x : Byte}
    (hx : x ∈ b.textBytes f) : x ≠ 0#8 := by
  obtain ⟨k, hk, rfl⟩ := List.mem_map.1 hx
  exact h.stored hne f k (List.mem_range.1 hk)

/-! ### The 71 bytes -/

/-- R120: the layout of the record. -/
theorem Block.recordBytes_layout (b : Block) : b.recordBytes =
    b.record.readBytes 0 4 ++ b.fieldBytes .commit ++ [b.record.read dirtyOffset] ++ b.fieldBytes .branch
      ++ b.fieldBytes .date ++ b.fieldBytes .time ++ b.record.readBytes crcOffset 4 := rfl

/-- R120: a string field's extent in the 71 bytes. -/
theorem Block.extent_recordBytes (b : Block) (f : TextField) :
    (b.recordBytes.drop f.offset).take f.width = b.fieldBytes f := by cases f <;> rfl

/-- R125: scanning a string field's extent up to its first 0x00 gives its characters. -/
theorem RecordOk.extentString {b : Block} (h : RecordOk b) (hne : b.rstate ≠ .empty) (f : TextField) :
    extentString b.recordBytes f = b.textBytes f := by
  rw [Machine.extentString, Block.extent_recordBytes, h.fieldBytes hne,
    List.takeWhile_append_of_pos fun x hx => by simpa using h.textBytes_ne_zero hne hx]
  simp

/-- R130: the reader's payload is the one the record's CRC covers. -/
theorem RecordOk.readerPayload {b : Block} (h : RecordOk b) (hne : b.rstate ≠ .empty) :
    readerPayload b.recordBytes = b.payload := by
  have hdirty : b.recordBytes.getD dirtyOffset 0#8 = b.record.read dirtyOffset := rfl
  simp only [Machine.readerPayload, h.extentString hne, hdirty, Block.payload]

/-- Settles O51: the scanned payload is the record's own, and the magic and the CRC are items 5 and 7 of the invariant. -/
theorem sealedRecordsPassTheReader : Obligations.SealedRecordsPassTheReader := by
  intro b h
  refine ⟨h.readerPayload, fun hs => ?_⟩
  have hne : b.rstate ≠ .empty := by simp [hs]
  have hmagic : b.recordBytes.take 4 = magic := h.hasMagic hne
  have hcrc : (b.recordBytes.drop crcOffset).take 4 = bytesLE (crc32 b.payload) := h.sealedCrc hs
  have hlen : b.recordBytes.length = recordSize := Memory.length_readBytes _ _ _
  simp [readerAccepts, hlen, hmagic, hcrc, h.readerPayload hne]

end Sys2Proof.Machine
end

section
/-! PROOFS. 41_record.md R121, R122, R131: the build sequence, a refinement of the source's strings command by command. -/

namespace Sys2Proof.Machine

/-! ### The stored characters of a string (R121) -/

/-- What follows a NUL is not stored. -/
theorem storedChars_append_nul (w : Nat) (q r : List Byte) : storedChars w (q ++ 0#8 :: r) = storedChars w q := by
  have h : (q ++ 0#8 :: r).takeWhile (· ≠ 0#8) = q.takeWhile (· ≠ 0#8) := by
    induction q with
    | nil => simp
    | cons x q ih => by_cases hx : x = 0#8 <;> simp_all
  rw [storedChars, h, storedChars]

/-- A string that has ended stores nothing more. -/
theorem storedChars_append_of_ended {w : Nat} {q : List Byte} (h : 0#8 ∈ q) (r : List Byte) :
    storedChars w (q ++ r) = storedChars w q := by
  obtain ⟨a, z, rfl⟩ := List.append_of_mem h
  rw [List.append_assoc, List.cons_append, storedChars_append_nul, storedChars_append_nul]

/-- What follows a string without a NUL goes on from its end. -/
theorem storedChars_append_of_no_nul {w : Nat} {q : List Byte} (h : 0#8 ∉ q) (r : List Byte) :
    storedChars w (q ++ r) = (q ++ r.takeWhile (· ≠ 0#8)).take (w - 1) := by
  rw [storedChars, List.takeWhile_append_of_pos fun x hx => by simpa using ne_of_mem_of_not_mem hx h]

theorem storedChars_of_no_nul {w : Nat} {q : List Byte} (h : 0#8 ∉ q) : storedChars w q = q.take (w - 1) := by
  simpa using storedChars_append_of_no_nul (w := w) h []

/-- R121: a string field stores at most `w - 1` characters. -/
theorem length_storedChars_le (w : Nat) (q : List Byte) : (storedChars w q).length ≤ w - 1 := List.length_take_le _ _

/-- A string that has not ended but is as long as its field stores nothing more. -/
theorem storedChars_append_of_full {w : Nat} {q : List Byte} (hq : 0#8 ∉ q) (hlen : (storedChars w q).length = w - 1)
    (r : List Byte) : storedChars w (q ++ r) = storedChars w q := by
  rw [storedChars_of_no_nul hq, List.length_take] at hlen
  rw [storedChars_append_of_no_nul hq, storedChars_of_no_nul hq, List.take_append_of_le_length (by omega)]

/-- One more character of a string that has not ended and is not cut off. -/
theorem storedChars_push {w : Nat} {q : List Byte} (hq : 0#8 ∉ q) (hlen : (storedChars w q).length < w - 1) {d : Byte}
    (hd : d ≠ 0#8) : storedChars w (q ++ [d]) = storedChars w q ++ [d] := by
  rw [storedChars_of_no_nul hq, List.length_take] at hlen
  have hfit : (q ++ [d]).length ≤ w - 1 := by rw [List.length_append, List.length_singleton]; omega
  have hpush : 0#8 ∉ q ++ [d] := by simp [hq, hd.symm]
  rw [storedChars_of_no_nul hq, storedChars_of_no_nul hpush, List.take_of_length_le hfit,
    List.take_of_length_le (show q.length ≤ w - 1 by omega)]

@[simp] theorem length_storedForm {w : Nat} (q : List Byte) : (storedForm w q).length = w := by
  have := length_storedChars_le w q
  simp only [storedForm, List.length_append, List.length_replicate]
  omega

/-! ### What REC_PUT leaves alone -/

/-- R127: REC_PUT leaves the other string fields' lengths and ends. -/
theorem putEffect_text_other {x g : TextField} (hg : g ≠ x) (d : Byte) (b : Block) :
    (putEffect x d b).text g = b.text g := by
  by_cases hclosed : b.Closed x
  · rw [putEffect_of_closed hclosed]
  · by_cases hd : d = 0#8
    · rw [hd, putEffect_nul hclosed, Block.text_setText_other _ _ hg]
    · rw [putEffect_char hclosed hd, Block.text_setText_other _ _ hg, Block.text_with_record]

/-- R127: REC_PUT leaves every byte outside its field. -/
theorem putEffect_read_other {b : Block} {x : TextField} (hfit : (b.text x).len ≤ x.capacity) {i : Nat}
    (hi : ∀ k, k < x.width → i ≠ x.offset + k) (d : Byte) : (putEffect x d b).record.read i = b.record.read i := by
  by_cases hclosed : b.Closed x
  · rw [putEffect_of_closed hclosed]
  · by_cases hd : d = 0#8
    · rw [hd, putEffect_nul hclosed, Block.setText_record]
    · rw [putEffect_char hclosed hd, Block.setText_record]
      exact Memory.read_write_other _ _ (hi _ (Nat.lt_of_le_of_lt hfit x.capacity_lt_width))

/-! ### A string field that holds what has been put into it -/

/-- The string field `f` stands as the bytes `q` put into it leave it: it stores their characters (R121), only a NUL has ended it, and
a NUL has closed it. -/
structure TextHolds (b : Block) (f : TextField) (q : List Byte) : Prop where
  stored : b.textBytes f = storedChars f.width q
  ended : (b.text f).term = true → 0#8 ∈ q
  closed : 0#8 ∈ q → b.Closed f

/-- It depends on the field's own bytes, length and end alone. -/
theorem TextHolds.congr {b b' : Block} {f : TextField} {q : List Byte} (h : TextHolds b f q) (ok : RecordOk b)
    (ht : b'.text f = b.text f)
    (hread : ∀ k, k < f.width → b'.record.read (f.offset + k) = b.record.read (f.offset + k)) :
    TextHolds b' f q where
  stored := by
    rw [Block.textBytes, ht, Memory.readBytes_congr fun k hk => hread k (Nat.lt_trans hk (ok.len_lt_width f))]
    exact h.stored
  ended := by rw [ht]; exact h.ended
  closed := by unfold Block.Closed; rw [ht]; exact h.closed

theorem TextHolds.length_storedChars {b : Block} {f : TextField} {q : List Byte} (h : TextHolds b f q) :
    (storedChars f.width q).length = (b.text f).len := by
  rw [← h.stored, Block.length_textBytes]

/-- A closed field stores nothing more. -/
theorem TextHolds.storedChars_append {b : Block} {f : TextField} {q : List Byte} (h : TextHolds b f q) (hc : b.Closed f)
    (r : List Byte) : storedChars f.width (q ++ r) = storedChars f.width q := by
  by_cases hq : 0#8 ∈ q
  · exact storedChars_append_of_ended hq r
  · rcases hc with ht | hl
    · exact absurd (h.ended ht) hq
    · exact storedChars_append_of_full hq (h.length_storedChars.trans hl) r

/-- R127: REC_PUT refines one more byte of the string put into its field. -/
theorem TextHolds.put {b : Block} {x : TextField} {q : List Byte} (h : TextHolds b x q) (ok : RecordOk b) (d : Byte) :
    TextHolds (putEffect x d b) x (q ++ [d]) := by
  by_cases hclosed : b.Closed x
  · rw [putEffect_of_closed hclosed]
    exact ⟨h.stored.trans (h.storedChars_append hclosed _).symm, fun ht => List.mem_append_left _ (h.ended ht),
      fun _ => hclosed⟩
  have hq : 0#8 ∉ q := mt h.closed hclosed
  by_cases hd : d = 0#8
  · subst hd
    rw [putEffect_nul hclosed]
    refine ⟨?_, by simp, fun _ => .inl (by simp)⟩
    rw [storedChars_append_nul, ← h.stored]
    simp [Block.textBytes]
  · obtain ⟨ht, hl⟩ := Block.not_closed_iff.1 hclosed
    have hlen : (storedChars x.width q).length < x.width - 1 := by
      rw [h.length_storedChars]
      exact Nat.lt_of_le_of_ne (ok.lengths x) hl
    rw [putEffect_char hclosed hd]
    refine ⟨?_, by simp, fun hmem => absurd hmem (by simp [hq, Ne.symm hd])⟩
    rw [storedChars_push hq hlen hd, ← h.stored, Block.textBytes, Block.setText_record, Block.text_setText_same,
      Memory.readBytes_succ, Memory.readBytes_write_other _ _ (.inr (Nat.le_refl _)),
      Memory.read_write_same ok.canonical, Block.textBytes]

/-- R121: the field's bytes are the stored form of the string put into it. -/
theorem TextHolds.fieldBytes {b : Block} {f : TextField} {q : List Byte} (h : TextHolds b f q) (ok : RecordOk b)
    (hne : b.rstate ≠ .empty) : b.fieldBytes f = storedForm f.width q := by
  rw [ok.fieldBytes hne, h.stored, ← h.length_storedChars, storedForm]

/-! ### A record being built from the strings put into it -/

/-- The commands from `s` to `t` have begun a record and put the bytes `q f` into each string field and `v` into the dirty byte; no error
is latched, and the port, the queue, FOPEN and META are as in `s`. -/
structure Builds (s : State) (q : TextField → List Byte) (v : Byte) (t : State) : Prop where
  recordOk : RecordOk t.blk
  building : t.blk.rstate = .building
  texts : ∀ f, TextHolds t.blk f (q f)
  dirty : t.blk.record.read dirtyOffset = v
  clear : t.blk.err = false
  port : t.port = s.port
  outq : t.blk.outq = s.blk.outq
  fopen : t.blk.fopen = s.blk.fopen
  metaWord : t.blk.metaWord = s.blk.metaWord

/-- A run of one command. -/
theorem runCommands_singleton (i : Instr) (s : State) : runCommands [i] s = exec i s := by
  obtain ⟨t, ht⟩ := exec_answers i s
  rw [runCommands_cons_of_exec ht, ht, runCommands]

/-- A run goes on from where its first part ends. -/
theorem runCommands_append {is : List Instr} {s t : State} (h : runCommands is s = .next t) (js : List Instr) :
    runCommands (is ++ js) s = runCommands js t := by
  induction is generalizing s with
  | nil => cases h; rfl
  | cons i is ih =>
    obtain ⟨u, hu⟩ := exec_answers i s
    rw [runCommands_cons_of_exec hu] at h
    rw [List.cons_append, runCommands_cons_of_exec hu, ih h]

/-- R126: REC_BEGIN begins a record of empty strings. -/
theorem builds_recBegin {s : State} (he : s.blk.err = false) :
    ∃ t, runCommands [.recBegin] s = .next t ∧ Builds s (fun _ => []) 0#8 t := by
  refine ⟨_, (runCommands_singleton _ s).trans (exec_recBegin he), ?_⟩
  exact {
    recordOk := recordOk_recBegin s.blk
    building := rfl
    texts := fun f => ⟨by simp [Block.textBytes, TextState.cleared, storedChars], by simp [TextState.cleared], by simp⟩
    dirty := recBeginEffect_read s.blk (by decide)
    clear := he, port := rfl, outq := rfl, fopen := rfl, metaWord := rfl }

/-- R127: REC_PUT puts one more byte into its field. -/
theorem Builds.recPut {s t : State} {q : TextField → List Byte} {v : Byte} (h : Builds s q v t) (x : TextField) (d : Byte) :
    ∃ u, exec (.recPut x.selector d) t = .next u ∧ Builds s (Function.update q x (q x ++ [d])) v u := by
  refine ⟨_, exec_recPut h.clear h.building x d, ?_⟩
  have hread : ∀ {i}, (∀ k, k < x.width → i ≠ x.offset + k) →
      (putEffect x d t.blk).record.read i = t.blk.record.read i :=
    fun hi => putEffect_read_other (h.recordOk.lengths x) hi d
  refine ⟨h.recordOk.put h.building x d, by simp [h.building], fun f => ?_, ?_, by simp [h.clear], h.port, by simp [h.outq],
    by simp [h.fopen], by simp [h.metaWord]⟩
  · by_cases hf : f = x
    · subst hf
      rw [Function.update_self]
      exact (h.texts f).put h.recordOk d
    · rw [Function.update_of_ne hf]
      exact (h.texts f).congr h.recordOk (putEffect_text_other hf d t.blk) fun k hk =>
        hread fun j hj => TextField.disjoint hf hk hj
  · exact (hread fun k hk => (x.ne_dirtyOffset hk).symm).trans h.dirty

/-- R90: REC.STR puts a string into its field. -/
theorem Builds.recStr {s t : State} {q : TextField → List Byte} {v : Byte} (h : Builds s q v t) (x : TextField)
    (r : List Byte) : ∃ u, runCommands (recStr x r) t = .next u ∧ Builds s (Function.update q x (q x ++ r)) v u := by
  induction r generalizing q t with
  | nil => exact ⟨t, rfl, by simpa using h⟩
  | cons d r ih =>
    obtain ⟨u, hu, hb⟩ := h.recPut x d
    obtain ⟨w, hw, hb⟩ := ih hb
    exact ⟨w, (runCommands_cons_of_exec hu _).trans hw, by simpa using hb⟩

/-- R128: REC_DIRTY puts its flag into the dirty byte. -/
theorem Builds.recDirty {s t : State} {q : TextField → List Byte} {v : Byte} (h : Builds s q v t) (w : BitVec 1) :
    ∃ u, runCommands [.recDirty w] t = .next u ∧ Builds s q (dirtyByte w) u := by
  refine ⟨_, (runCommands_singleton _ t).trans (exec_recDirty h.clear h.building w), ?_⟩
  have htext : ∀ f, TextHolds (recDirtyEffect w t.blk) f (q f) := fun f =>
    (h.texts f).congr h.recordOk rfl fun k hk => Memory.read_write_other _ _ (f.ne_dirtyOffset hk)
  exact ⟨h.recordOk.recDirty h.building w, h.building, htext, Memory.read_write_same h.recordOk.canonical _ _, h.clear, h.port,
    h.outq, h.fopen, h.metaWord⟩

/-- R122: the payload of the record is the source's. -/
theorem Builds.payload {s t : State} {q : TextField → List Byte} {v : BitVec 1} (h : Builds s q (dirtyByte v) t) :
    t.blk.payload = sourcePayload (q .commit) v (q .branch) (q .date) (q .time) := by
  simp only [Block.payload, (h.texts _).stored, h.dirty, sourcePayload, TextField.width]

/-- R131: REC_SEAL completes the source's record. -/
theorem Builds.recordBytes_recSeal {s t : State} {q : TextField → List Byte} {v : BitVec 1}
    (h : Builds s q (dirtyByte v) t) :
    (recSealEffect t.blk).recordBytes = sourceRecord (q .commit) v (q .branch) (q .date) (q .time) := by
  have ok : RecordOk (recSealEffect t.blk) := h.recordOk.recSeal h.building
  have hread : ∀ {i}, i < crcOffset → (recSealEffect t.blk).record.read i = t.blk.record.read i :=
    fun hi => recSealEffect_read_other t.blk (.inl hi)
  have hfield : ∀ f, (recSealEffect t.blk).fieldBytes f = storedForm f.width (q f) := by
    intro f
    have hholds : TextHolds (recSealEffect t.blk) f (q f) := (h.texts f).congr h.recordOk rfl fun k hk =>
      hread (Nat.lt_of_lt_of_le (Nat.add_lt_add_left hk _) f.extent.2)
    exact hholds.fieldBytes ok (by simp)
  have hmagic : (recSealEffect t.blk).record.readBytes 0 4 = magic := ok.hasMagic (by simp)
  have hdirty : (recSealEffect t.blk).record.read dirtyOffset = dirtyByte v := (hread (by decide)).trans h.dirty
  have hcrc : (recSealEffect t.blk).record.readBytes crcOffset 4 = bytesLE (crc32 t.blk.payload) :=
    Memory.readBytes_writeBytes h.recordOk.canonical crcOffset _
  rw [Block.recordBytes_layout, hmagic, hdirty, hcrc, h.payload]
  simp only [hfield, sourceRecord, TextField.width]

/-- R120: the source's record has 71 bytes. -/
theorem length_sourceRecord (c : List Byte) (v : BitVec 1) (b d t : List Byte) : (sourceRecord c v b d t).length = 71 := by
  simp [sourceRecord, magic]

/-- Settles O52: each command refines what has been put into the record, which REC_SEAL completes. -/
theorem buildSequenceGivesTheSourceRecord : Obligations.BuildSequenceGivesTheSourceRecord := by
  intro c b d t v s he
  refine ⟨length_sourceRecord c v b d t, ?_⟩
  obtain ⟨s₀, h₀, hb⟩ := builds_recBegin he
  obtain ⟨s₁, h₁, hb⟩ := hb.recStr .commit c
  obtain ⟨s₂, h₂, hb⟩ := hb.recDirty v
  obtain ⟨s₃, h₃, hb⟩ := hb.recStr .branch b
  obtain ⟨s₄, h₄, hb⟩ := hb.recStr .date d
  obtain ⟨s₅, h₅, hb⟩ := hb.recStr .time t
  have hrun : runCommands (recBuild c v b d t) s = .next (s₅.withBlock (recSealEffect s₅.blk)) := by
    simp only [recBuild, List.append_assoc]
    rw [runCommands_append h₀, runCommands_append h₁, runCommands_append h₂, runCommands_append h₃, runCommands_append h₄,
      runCommands_append h₅, runCommands_singleton, exec_recSeal hb.clear hb.building]
  refine ⟨_, hrun, ?_, rfl, hb.clear, ?_, hb.port, hb.outq, hb.fopen, hb.metaWord⟩
  · simpa using hb.recordBytes_recSeal
  · simpa using congrArg crc32 hb.payload

end Sys2Proof.Machine
end

section
/-! PROOFS. 42_framer.md R155 to R160: the framer's commands, what a command appends to the queue, and the sink's take. -/

namespace Sys2Proof.Machine

/-- 60_exceptions.md R201: with no frame open FRM_OPEN passes FRM_STATE. -/
theorem needsNoFrame_of_closed {b : Block} (h : b.fopen = false) : needsNoFrame b = none := by simp [needsNoFrame, h]

/-- With a frame open FRM_BYTE and FRM_CLOSE pass it. -/
theorem needsFrame_of_open {b : Block} (h : b.fopen = true) : needsFrame b = none := by simp [needsFrame, h]

/-! ### FRM_OPEN -/

theorem frmOpenEffect_of_empty {b : Block} (h : b.outq = []) :
    frmOpenEffect b = { b with outq := [dollar], fopen := true, gcnt := 0 } := by
  simp [frmOpenEffect, Block.emit, h]

/-- Settles O16: FRM_OPEN waits exactly while the queue holds a byte. -/
theorem frmOpenEmitsTheDollar : Obligations.FrmOpenEmitsTheDollar := by
  intro s he hf
  have hc : commandCheck .frmOpen s.blk = none := needsNoFrame_of_closed hf
  refine ⟨fun hq => ?_, fun hq => ?_⟩
  · have hw : commandWaits .frmOpen s.cfg.outqDepth s.blk = false := by simp [commandWaits, frmOpenWaits, hq]
    rw [exec_effect (.inl he) hc hw, commandEffect, frmOpenEffect_of_empty hq]
    rfl
  · have hw : commandWaits .frmOpen s.cfg.outqDepth s.blk = true := by
      simpa [commandWaits, frmOpenWaits] using List.length_pos_iff.2 hq
    exact exec_hold he hc hw

/-! ### FRM_BYTE -/

/-- R156: only the third byte of a group may have to wait. -/
theorem frmByteWaits_of_gcnt_ne_two {b : Block} (h : b.gcnt ≠ 2) (depth : Nat) : frmByteWaits depth b = false := by
  rcases gcnt_cases b.gcnt with hg | hg | hg
  · simp [frmByteWaits, hg]
  · simp [frmByteWaits, hg]
  · exact absurd hg h

/-- R156: it waits while four bytes do not fit. -/
theorem frmByteWaits_of_gcnt_two {b : Block} (h : b.gcnt = 2) (depth : Nat) :
    frmByteWaits depth b = decide (depth < b.outq.length + 4) := by simp [frmByteWaits, h]

/-- Settles O17: FRM_BYTE's effect for each GCNT, and its hold check at the third byte. -/
theorem frmByteCollectsGroups : Obligations.FrmByteCollectsGroups := by
  intro d s he hf
  have hc : commandCheck (.frmByte d) s.blk = none := needsFrame_of_open hf
  have heffect (hw : frmByteWaits s.cfg.outqDepth s.blk = false) :
      exec (.frmByte d) s = .next (s.withBlock (frmByteEffect d s.blk)) := exec_effect (.inl he) hc hw
  refine ⟨fun hg => ?_, fun hg => ?_, fun hg hroom => ?_, fun hg hfull => ?_⟩
  · rw [heffect (frmByteWaits_of_gcnt_ne_two (by simp [hg]) _), frmByteEffect_of_gcnt_zero hg]
    rfl
  · rw [heffect (frmByteWaits_of_gcnt_ne_two (by simp [hg]) _), frmByteEffect_of_gcnt_one hg]
    rfl
  · have hw : frmByteWaits s.cfg.outqDepth s.blk = false := by simpa [frmByteWaits_of_gcnt_two hg] using hroom
    rw [heffect hw, frmByteEffect_of_gcnt_two hg]
    rfl
  · have hw : commandWaits (.frmByte d) s.cfg.outqDepth s.blk = true := by
      simpa [commandWaits, frmByteWaits_of_gcnt_two hg] using hfull
    rw [exec_hold he hc hw, State.hold, (assemblerWordsAndExpansions.1 d).2]

/-! ### FRM_CLOSE -/

/-- R153, R154: the tail for each number of pending bytes. -/
theorem Block.tail_eq {b : Block} {tail : List Byte} (h : (b.gcnt = 0 ∧ tail = []) ∨
    (b.gcnt = 1 ∧ tail = enc1 b.gbuf0) ∨ (b.gcnt = 2 ∧ tail = enc2 b.gbuf0 b.gbuf1)) : b.tail = tail := by
  rcases h with ⟨hg, rfl⟩ | ⟨hg, rfl⟩ | ⟨hg, rfl⟩ <;> simp [Block.tail, hg]

/-- R157: FRM_CLOSE waits while the tail and the newline do not fit. -/
theorem frmCloseWaits_eq (depth : Nat) (b : Block) :
    frmCloseWaits depth b = decide (depth < b.outq.length + b.tail.length + 1) := by
  rw [frmCloseWaits, ← b.length_tail, Nat.add_assoc]

/-- Settles O18: the tail named is the block's, whose length with the newline is the room FRM_CLOSE waits for. -/
theorem frmCloseEndsTheFrame : Obligations.FrmCloseEndsTheFrame := by
  intro s he hf tail htail
  obtain rfl := Block.tail_eq htail
  have hc : commandCheck .frmClose s.blk = none := needsFrame_of_open hf
  refine ⟨fun hroom => ?_, fun hfull => ?_⟩
  · have hw : commandWaits .frmClose s.cfg.outqDepth s.blk = false := by
      simpa [commandWaits, frmCloseWaits_eq] using hroom
    rw [exec_effect (.inl he) hc hw, List.append_assoc]
    rfl
  · have hw : commandWaits .frmClose s.cfg.outqDepth s.blk = true := by
      simpa [commandWaits, frmCloseWaits_eq] using hfull
    exact exec_hold he hc hw

/-! ### What a command that completes appends -/

theorem not_executes_of_check {i : Instr} {b : Block} {e : CmdError} (h : commandCheck i b = some e) :
    executes i b = false := by simp [executes, h]

/-- Settles O20: only the effect of an executed command touches the queue, and it appends the command's own bytes. -/
theorem emittedBytesMatchTheTable : Obligations.EmittedBytesMatchTheTable := by
  intro i s t _ h hfree
  rcases exec_cases h with ⟨he, hx, rfl⟩ | ⟨-, e, hc, rfl⟩ | ⟨-, -, -, rfl⟩ | ⟨hx, hc, -, rfl⟩
  · exact ⟨[], by simp, by simp [executes, he, hx]⟩
  · exact ⟨[], by simp, by simp [not_executes_of_check hc]⟩
  · cases hfree
  · refine ⟨emitted i s.blk, commandEffect_outq i s.blk, ?_⟩
    rw [length_emitted, if_pos (executes_iff.2 ⟨hx, hc⟩)]

/-! ### The sink -/

/-- R160: on the sink's turn, no try being due, the step is its take. -/
theorem step_of_sink {s : State} {ts : List Turn} (hn : nextTurn s.turns = (.sink, ts)) (hp : ∀ w, s.port ≠ .retry w) :
    step s = .next (sinkTake { s with turns := ts }) := by
  simp only [step, nextStep, hn]
  split
  · next w hw => exact absurd hw (hp w)
  · rfl
  · rfl

theorem sinkTake_of_empty {s : State} (h : s.blk.outq = []) : sinkTake s = s := by simp [sinkTake, h]

theorem sinkTake_of_cons {s : State} {b : Byte} {q : List Byte} (h : s.blk.outq = b :: q) : sinkTake s =
    { s with blk := { s.blk with outq := q }, tx := s.tx ++ [b], port := s.port.wake } := by simp [sinkTake, h]

/-- Settles O36: the two cases of the take. -/
theorem sinkTakesTheHead : Obligations.SinkTakesTheHead := by
  intro s ts ht hp
  rw [step_of_sink (congrArg nextTurn ht) hp]
  exact ⟨fun hq => congrArg _ (sinkTake_of_empty hq), fun b q hq => congrArg _ (sinkTake_of_cons hq)⟩

end Sys2Proof.Machine
end

section
/-! PROOFS. 42_framer.md R150 to R154, R162, R163, R166: the shape of a body, what it determines, and the receiver of the wire. -/

namespace Sys2Proof.Machine

/-! ### Lengths -/

/-- R162: a group of three bytes, the last one perhaps short, has four characters. -/
theorem length_b64 (p : List Byte) : (b64 p).length = 4 * ((p.length + 2) / 3) := by
  induction p using b64.induct with
  | case1 => simp
  | case2 b0 => simp [b64_one]
  | case3 b0 b1 => simp [b64_two]
  | case4 b0 b1 b2 p ih =>
    simp only [b64_group, List.length_append, length_enc3, ih, List.length_cons]
    omega

theorem length_frame (p : List Byte) : (frame p).length = (b64 p).length + 2 := by
  simp [frame]

/-- Settles O54: the length of a body, with its two delimiters. -/
theorem frameLengths : Obligations.FrameLengths :=
  ⟨fun p => ⟨length_b64 p, by rw [length_frame, length_b64]⟩, by simp [frame, dollar, newline]⟩

/-! ### The characters of a body -/

/-- R151: a character is neither the pad nor a delimiter. -/
theorem b64Char_ne (i : BitVec 6) : b64Char i ≠ padChar ∧ b64Char i ≠ dollar ∧ b64Char i ≠ newline := by
  revert i; decide

/-- R151: a character determines its index. -/
theorem b64Char_injective : Function.Injective b64Char := by
  have h : ∀ i j : BitVec 6, b64Char i = b64Char j → i = j := by decide
  exact fun i j => h i j

/-- R152 to R154: a body is characters of the alphabet and then the pads, two for a final group of one byte and one for one of
two bytes. -/
theorem b64_eq_chars_pads (p : List Byte) :
    ∃ is : List (BitVec 6), b64 p = is.map b64Char ++ List.replicate (2 * p.length % 3) padChar := by
  induction p using b64.induct with
  | case1 => exact ⟨[], by simp⟩
  | case2 b0 =>
    let g := group b0 0#8 0#8
    exact ⟨[g.extractLsb' 18 6, g.extractLsb' 12 6], b64_one b0⟩
  | case3 b0 b1 =>
    let g := group b0 b1 0#8
    exact ⟨[g.extractLsb' 18 6, g.extractLsb' 12 6, g.extractLsb' 6 6], by simp [b64_two, enc2, g]⟩
  | case4 b0 b1 b2 p ih =>
    obtain ⟨is, ih⟩ := ih
    let g := group b0 b1 b2
    refine ⟨[g.extractLsb' 18 6, g.extractLsb' 12 6, g.extractLsb' 6 6, g.extractLsb' 0 6] ++ is, ?_⟩
    have hn : 2 * (b0 :: b1 :: b2 :: p).length % 3 = 2 * p.length % 3 := by simp only [List.length_cons]; omega
    rw [hn, List.map_append, List.append_assoc, ← ih, b64_group]
    rfl

/-- R163: a byte of a body is a character or the pad. -/
theorem char_or_pad_of_mem_b64 {p : List Byte} {c : Byte} (h : c ∈ b64 p) : (∃ i, c = b64Char i) ∨ c = padChar := by
  obtain ⟨is, hp⟩ := b64_eq_chars_pads p
  rw [hp, List.mem_append, List.mem_map] at h
  rcases h with ⟨i, -, hi⟩ | h
  · exact .inl ⟨i, hi.symm⟩
  · exact .inr (List.eq_of_mem_replicate h)

theorem dollar_notMem_b64 (p : List Byte) : dollar ∉ b64 p := by
  intro h
  rcases char_or_pad_of_mem_b64 h with ⟨i, hi⟩ | h
  · exact (b64Char_ne i).2.1 hi.symm
  · exact absurd h (by decide)

theorem newline_notMem_b64 (p : List Byte) : newline ∉ b64 p := by
  intro h
  rcases char_or_pad_of_mem_b64 h with ⟨i, hi⟩ | h
  · exact (b64Char_ne i).2.2 hi.symm
  · exact absurd h (by decide)

theorem padChar_notMem_map (is : List (BitVec 6)) : padChar ∉ is.map b64Char := by
  intro h
  obtain ⟨i, -, hi⟩ := List.mem_map.1 h
  exact (b64Char_ne i).1 hi

/-- R163: the pads are the last two bytes at most. -/
theorem pad_position {p : List Byte} {k : Nat} (h : (b64 p)[k]? = some padChar) : (b64 p).length ≤ k + 2 := by
  obtain ⟨is, hp⟩ := b64_eq_chars_pads p
  have hk : (is.map b64Char).length ≤ k := by
    by_contra hlt
    rw [hp, List.getElem?_append_left (Nat.lt_of_not_le hlt)] at h
    exact padChar_notMem_map is (List.mem_of_getElem? h)
  rw [hp, List.length_append, List.length_replicate]
  omega

/-- The number of pads in a body tells how long its final group is. -/
theorem count_padChar_b64 (p : List Byte) : (b64 p).count padChar = 2 * p.length % 3 := by
  obtain ⟨is, hp⟩ := b64_eq_chars_pads p
  rw [hp, List.count_append, List.count_eq_zero.2 (padChar_notMem_map is), List.count_replicate_self, Nat.zero_add]

/-! ### A body determines its payload -/

/-- R152: the three bytes of a group. -/
theorem extract_group (b0 b1 b2 : Byte) : (group b0 b1 b2).extractLsb' 16 8 = b0 ∧
    (group b0 b1 b2).extractLsb' 8 8 = b1 ∧ (group b0 b1 b2).extractLsb' 0 8 = b2 := by
  refine ⟨?_, ?_, ?_⟩
  all_goals
    ext i hi
    interval_cases i <;> simp [group]

/-- Two neighbouring indices of a group hold each byte that lies within their twelve bits. -/
theorem extract_eq_of_indices {g g' : BitVec 24} {k i : Nat} (hhigh : g.extractLsb' (k + 6) 6 = g'.extractLsb' (k + 6) 6)
    (hlow : g.extractLsb' k 6 = g'.extractLsb' k 6) (hk : k ≤ i) (hi : i + 8 ≤ k + 12) :
    g.extractLsb' i 8 = g'.extractLsb' i 8 := by
  refine BitVec.eq_of_getLsbD_eq fun j hj => ?_
  have bit_high := congrArg (·.getLsbD (i + j - (k + 6))) hhigh
  have bit_low := congrArg (·.getLsbD (i + j - k)) hlow
  simp only [BitVec.getLsbD_extractLsb'] at bit_high bit_low ⊢
  by_cases h : i + j < k + 6
  · simpa [hj, show i + j - k < 6 by omega, show k + (i + j - k) = i + j by omega] using bit_low
  · simpa [hj, show i + j - (k + 6) < 6 by omega, show k + 6 + (i + j - (k + 6)) = i + j by omega] using bit_high

theorem group_byte0_eq {b0 b1 b2 c0 c1 c2 : Byte}
    (h18 : (group b0 b1 b2).extractLsb' 18 6 = (group c0 c1 c2).extractLsb' 18 6)
    (h12 : (group b0 b1 b2).extractLsb' 12 6 = (group c0 c1 c2).extractLsb' 12 6) : b0 = c0 := by
  simpa only [extract_group] using extract_eq_of_indices (i := 16) h18 h12 (by omega) (by omega)

theorem group_byte1_eq {b0 b1 b2 c0 c1 c2 : Byte}
    (h12 : (group b0 b1 b2).extractLsb' 12 6 = (group c0 c1 c2).extractLsb' 12 6)
    (h6 : (group b0 b1 b2).extractLsb' 6 6 = (group c0 c1 c2).extractLsb' 6 6) : b1 = c1 := by
  simpa only [extract_group] using extract_eq_of_indices (i := 8) h12 h6 (by omega) (by omega)

theorem group_byte2_eq {b0 b1 b2 c0 c1 c2 : Byte}
    (h6 : (group b0 b1 b2).extractLsb' 6 6 = (group c0 c1 c2).extractLsb' 6 6)
    (h0 : (group b0 b1 b2).extractLsb' 0 6 = (group c0 c1 c2).extractLsb' 0 6) : b2 = c2 := by
  simpa only [extract_group] using extract_eq_of_indices (i := 0) h6 h0 (by omega) (by omega)

/-- R153 turned round. -/
theorem enc1_inj {b0 c0 : Byte} (h : enc1 b0 = enc1 c0) : b0 = c0 := by
  simp only [enc1, List.cons.injEq, b64Char_injective.eq_iff] at h
  obtain ⟨h18, h12, -⟩ := h
  exact group_byte0_eq h18 h12

/-- R154 turned round for a final group of two bytes. -/
theorem enc2_inj {b0 b1 c0 c1 : Byte} (h : enc2 b0 b1 = enc2 c0 c1) : b0 = c0 ∧ b1 = c1 := by
  simp only [enc2, List.cons.injEq, b64Char_injective.eq_iff] at h
  obtain ⟨h18, h12, h6, -⟩ := h
  exact ⟨group_byte0_eq h18 h12, group_byte1_eq h12 h6⟩

/-- R152 turned round. -/
theorem enc3_inj {b0 b1 b2 c0 c1 c2 : Byte} (h : enc3 b0 b1 b2 = enc3 c0 c1 c2) : b0 = c0 ∧ b1 = c1 ∧ b2 = c2 := by
  simp only [enc3, List.cons.injEq, b64Char_injective.eq_iff] at h
  obtain ⟨h18, h12, h6, h0, -⟩ := h
  exact ⟨group_byte0_eq h18 h12, group_byte1_eq h12 h6, group_byte2_eq h6 h0⟩

/-- Bodies of the same text are of payloads of the same length: the groups and the pads count alike. -/
theorem length_eq_of_b64_eq {p q : List Byte} (h : b64 p = b64 q) : p.length = q.length := by
  have hgroups : 4 * ((p.length + 2) / 3) = 4 * ((q.length + 2) / 3) := by rw [← length_b64, h, length_b64]
  have hpads : 2 * p.length % 3 = 2 * q.length % 3 := by rw [← count_padChar_b64, h, count_padChar_b64]
  omega

/-- R152 to R154 turned round, group by group: payloads of the same length fall into the same groups. -/
theorem b64_injective : Function.Injective b64 := by
  intro p q h
  have hlen := length_eq_of_b64_eq h
  induction p using b64.induct generalizing q with
  | case1 => exact (List.length_eq_zero_iff.1 hlen.symm).symm
  | case2 b0 =>
    obtain ⟨c0, rfl⟩ := List.length_eq_one_iff.1 hlen.symm
    rw [b64_one, b64_one] at h
    rw [enc1_inj h]
  | case3 b0 b1 =>
    obtain ⟨c0, c1, rfl⟩ := List.length_eq_two.1 hlen.symm
    rw [b64_two, b64_two] at h
    obtain ⟨rfl, rfl⟩ := enc2_inj h
    rfl
  | case4 b0 b1 b2 p ih =>
    match q, hlen with
    | c0 :: c1 :: c2 :: q, hlen =>
      rw [b64_group, b64_group] at h
      obtain ⟨hgroup, hrest⟩ := List.append_inj h (by simp only [length_enc3])
      obtain ⟨rfl, rfl, rfl⟩ := enc3_inj hgroup
      rw [ih hrest (by simpa using hlen)]

/-- Settles O56: the body stands between the delimiters, and it determines the payload. -/
theorem framesDetermineTheirPayload : Obligations.FramesDetermineTheirPayload := by
  intro p q h
  simp only [frame, List.append_cancel_right_eq, List.append_cancel_left_eq] at h
  exact b64_injective h

/-! ### The receiver of the wire -/

/-- R166: bytes before any dollar sign are skipped. -/
theorem receiveFrom_noise {noise : List Byte} (h : dollar ∉ noise) (rest : List Byte) :
    receiveFrom none (noise ++ rest) = receiveFrom none rest := by
  induction noise with
  | nil => rfl
  | cons c noise ih =>
    obtain ⟨hc, h⟩ := List.ne_and_not_mem_of_not_mem_cons h
    rw [List.cons_append, receiveFrom, if_neg hc.symm, ih h]

/-- R166: bytes that are no delimiter are collected. -/
theorem receiveFrom_collect {cs : List Byte} (hd : dollar ∉ cs) (hn : newline ∉ cs) (body rest : List Byte) :
    receiveFrom (some body) (cs ++ rest) = receiveFrom (some (body ++ cs)) rest := by
  induction cs generalizing body with
  | nil => simp
  | cons c cs ih =>
    obtain ⟨hcd, hd⟩ := List.ne_and_not_mem_of_not_mem_cons hd
    obtain ⟨hcn, hn⟩ := List.ne_and_not_mem_of_not_mem_cons hn
    rw [List.cons_append, receiveFrom, if_neg hcn.symm, if_neg hcd.symm, ih hd hn, List.append_assoc]
    rfl

/-- R166, log entry 12: a dollar sign starts a body, whatever was collected before it. -/
theorem receiveFrom_dollar (collected : Option (List Byte)) (rest : List Byte) :
    receiveFrom collected (dollar :: rest) = receiveFrom (some []) rest := by
  cases collected with
  | none => simp [receiveFrom]
  | some body => simp [receiveFrom, show dollar ≠ newline by decide]

/-- R163, R166: a whole frame gives its body, whatever was collected before it. -/
theorem receiveFrom_frame (collected : Option (List Byte)) (p rest : List Byte) :
    receiveFrom collected (frame p ++ rest) = b64 p :: receiveFrom none rest := by
  have hcollect := receiveFrom_collect (dollar_notMem_b64 p) (newline_notMem_b64 p) [] (newline :: rest)
  calc receiveFrom collected (frame p ++ rest)
    _ = receiveFrom collected (dollar :: (b64 p ++ newline :: rest)) := by simp [frame]
    _ = receiveFrom (some (b64 p)) (newline :: rest) := (receiveFrom_dollar _ _).trans hcollect
    _ = b64 p :: receiveFrom none rest := if_pos rfl

/-- R163: a sequence of frames gives their bodies. -/
theorem receive_frames (ps : List (List Byte)) : receive (ps.flatMap frame) = ps.map b64 := by
  unfold receive
  induction ps with
  | nil => rfl
  | cons p ps ih => rw [List.flatMap_cons, receiveFrom_frame, ih, List.map_cons]

/-- Settles O55: the receiver on whole frames, and the shape of a body. -/
theorem frameBodiesHoldNoDelimiter : Obligations.FrameBodiesHoldNoDelimiter :=
  ⟨receive_frames, fun p =>
    ⟨fun _ => char_or_pad_of_mem_b64, dollar_notMem_b64 p, newline_notMem_b64 p, fun _ => pad_position⟩⟩

/-- R166: a frame cut short gives no body and leaves the receiver to the next dollar sign. -/
theorem receive_cut {q cut : List Byte} (hcut : cut <+: frame q) (hne : cut ≠ frame q) (p : List Byte) :
    receive (cut ++ frame p) = [b64 p] := by
  have hframe (collected : Option (List Byte)) : receiveFrom collected (frame p) = [b64 p] := by
    simpa [receiveFrom] using receiveFrom_frame collected p []
  have hbody : cut <+: dollar :: b64 q := (List.prefix_concat_iff.1 hcut).resolve_left hne
  rcases List.prefix_cons_iff.1 hbody with rfl | ⟨cs, rfl, hcs⟩
  · exact hframe none
  · have hd : dollar ∉ cs := fun h => dollar_notMem_b64 q (hcs.subset h)
    have hn : newline ∉ cs := fun h => newline_notMem_b64 q (hcs.subset h)
    rw [receive, List.cons_append, receiveFrom_dollar, receiveFrom_collect hd hn, hframe]

/-- Settles O57: noise is skipped, and what is collected of a cut frame is discarded at the next frame's dollar sign. -/
theorem receiverRecoversFrames : Obligations.ReceiverRecoversFrames :=
  ⟨fun _ ps h => (receiveFrom_noise h _).trans (receive_frames ps), fun p _ _ hcut hne => receive_cut hcut hne p⟩

end Sys2Proof.Machine
end

section
/-! PROOFS. 42_framer.md R161: the commands of one payload put its frame on the wire, whatever comes between them. -/

namespace Sys2Proof.Machine

/-! ### One event of a run -/

@[simp] theorem framerCommands_take (es : List WireEvent) : framerCommands (.take :: es) = framerCommands es := rfl

theorem framerCommands_perform (i : Instr) (es : List WireEvent) : framerCommands (.perform i :: es) =
    if framerCommand i then i :: framerCommands es else framerCommands es := by
  cases i <;> rfl

/-- A run that goes on behind a command, with no error latched before it: the command had its effect and latched no error. -/
theorem runWire_perform {i : Instr} {es : List WireEvent} {s t : State} (he : s.blk.err = false)
    (h : runWire (.perform i :: es) s = some t) :
    (commandEffect i s.blk).err = false ∧ runWire es (s.withBlock (commandEffect i s.blk)) = some t := by
  obtain ⟨u, hu⟩ := exec_answers i s
  rw [runWire, hu] at h
  obtain ⟨⟨hfree, hclear⟩, h⟩ := Option.ite_none_right_eq_some.1 h
  rcases exec_cases hu with ⟨he', -, -⟩ | ⟨-, e, -, rfl⟩ | ⟨-, -, -, rfl⟩ | ⟨-, -, -, rfl⟩
  · simp [he] at he'
  · simp [Block.raise_of_clear he] at hclear
  · cases hfree
  · exact ⟨hclear, h⟩

/-- R160: a take moves a byte along the stream and leaves the rest of the block alone. -/
theorem sinkTake_stream (s : State) : (sinkTake s).stream = s.stream ∧ (sinkTake s).blk.groupPart = s.blk.groupPart ∧
    (sinkTake s).blk.err = s.blk.err := by
  cases hq : s.blk.outq with
  | nil => rw [sinkTake_of_empty hq]; exact ⟨rfl, rfl, rfl⟩
  | cons b q => rw [sinkTake_of_cons hq]; exact ⟨by simp [State.stream, hq], rfl, rfl⟩

/-- R39: a command's effect appends its bytes to the stream. -/
theorem withBlock_commandEffect_stream (i : Instr) (s : State) :
    (s.withBlock (commandEffect i s.blk)).stream = s.stream ++ emitted i s.blk := by
  simp [State.stream, commandEffect_outq]

/-! ### The frame so far -/

/-- The unfinished frame of the payload `q` stands behind the stream `x`: its dollar sign and the text of `q`'s complete groups are
emitted, the rest of `q` is pending. -/
def FrameSoFar (x q : List Byte) (s : State) : Prop :=
  ∃ g, g.length % 3 = 0 ∧ q = g ++ s.blk.pending ∧ s.stream = x ++ [dollar] ++ b64 g

/-- The pending bytes depend on the group alone. -/
theorem Block.pending_congr {b b' : Block} (h : b'.groupPart = b.groupPart) : b'.pending = b.pending := by
  obtain ⟨-, hg, h0, h1⟩ := Block.groupPart_eq_iff.1 h
  simp only [Block.pending, hg, h0, h1]

/-- R156: FRM_BYTE takes its byte behind the pending ones, and emits the text of the complete group they make, if they make one. -/
theorem frmByteEffect_pending (d : Byte) (b : Block) : ∃ g, g.length % 3 = 0 ∧
    b.pending ++ [d] = g ++ (frmByteEffect d b).pending ∧ emitted (.frmByte d) b = b64 g := by
  rcases gcnt_cases b.gcnt with hg | hg | hg
  · exact ⟨[], rfl, by simp [frmByteEffect_of_gcnt_zero hg, Block.pending, hg], by simp [emitted, hg]⟩
  · exact ⟨[], rfl, by simp [frmByteEffect_of_gcnt_one hg, Block.pending, hg], by simp [emitted, hg]⟩
  · exact ⟨[b.gbuf0, b.gbuf1, d], by simp, by simp [frmByteEffect_of_gcnt_two hg, Block.pending, hg],
      by simp [emitted, hg, b64_group]⟩

/-- R155: FRM_OPEN starts the frame. -/
theorem frameSoFar_frmOpen (s : State) : FrameSoFar s.stream [] (s.withBlock (frmOpenEffect s.blk)) :=
  ⟨[], rfl, rfl, (withBlock_commandEffect_stream .frmOpen s).trans (by simp [emitted])⟩

/-- R156: FRM_BYTE adds a byte to it. -/
theorem FrameSoFar.frmByte {x q : List Byte} {s : State} (h : FrameSoFar x q s) (d : Byte) :
    FrameSoFar x (q ++ [d]) (s.withBlock (frmByteEffect d s.blk)) := by
  obtain ⟨g, hg, rfl, hs⟩ := h
  obtain ⟨c, hc, hp, hemit⟩ := frmByteEffect_pending d s.blk
  refine ⟨g ++ c, by simp only [List.length_append]; omega, by simp [hp], ?_⟩
  refine (withBlock_commandEffect_stream (.frmByte d) s).trans ?_
  rw [hs, hemit, b64_append hg, List.append_assoc _ (b64 g)]

/-- R157: FRM_CLOSE makes it the payload's frame. -/
theorem FrameSoFar.frmClose {x q : List Byte} {s : State} (h : FrameSoFar x q s) :
    (s.withBlock (frmCloseEffect s.blk)).stream = x ++ frame q := by
  obtain ⟨g, hg, rfl, hs⟩ := h
  refine (withBlock_commandEffect_stream .frmClose s).trans ?_
  rw [hs, frame, b64_append hg, Block.b64_pending]
  simp [emitted]

/-! ### The run -/

/-- Where a run that sends the payload `p` behind the stream `x` stands, with the framer commands `is` still to perform. -/
inductive Sending (x p : List Byte) (is : List Instr) (s : State) : Prop where
  /-- Before FRM_OPEN. -/
  | before (todo : is = frmSend p) (stream : s.stream = x)
  /-- The frame holds `q` so far; the bytes `r` are to come. -/
  | within {q r : List Byte} (todo : is = r.map .frmByte ++ [.frmClose]) (payload : q ++ r = p) (sofar : FrameSoFar x q s)
  /-- Behind FRM_CLOSE. -/
  | after (todo : is = []) (fopen : s.blk.fopen = false) (stream : s.stream = x ++ frame p)

/-- What leaves the stream and the group alone leaves the run where it stands. -/
theorem Sending.congr {x p : List Byte} {is : List Instr} {s t : State} (h : Sending x p is s)
    (hs : t.stream = s.stream) (hg : t.blk.groupPart = s.blk.groupPart) : Sending x p is t := by
  cases h with
  | before todo stream => exact .before todo (hs.trans stream)
  | within todo payload sofar =>
    refine .within todo payload ?_
    rwa [FrameSoFar, hs, Block.pending_congr hg]
  | after todo fopen stream => exact .after todo ((congrArg Prod.fst hg).trans fopen) (hs.trans stream)

/-- The next framer command takes the run on. -/
theorem Sending.effect {x p : List Byte} {i : Instr} {is : List Instr} {s : State} (h : Sending x p (i :: is) s) :
    Sending x p is (s.withBlock (commandEffect i s.blk)) := by
  cases h with
  | before todo stream =>
    simp only [frmSend, List.cons_append, List.nil_append, List.cons.injEq] at todo
    obtain ⟨rfl, rfl⟩ := todo
    exact .within rfl (List.nil_append p) (stream ▸ frameSoFar_frmOpen s)
  | @within q r todo payload sofar =>
    cases r with
    | nil =>
      simp only [List.map_nil, List.nil_append, List.cons.injEq] at todo
      obtain ⟨rfl, rfl⟩ := todo
      rw [List.append_nil] at payload
      exact .after rfl rfl (payload ▸ sofar.frmClose)
    | cons d r =>
      simp only [List.map_cons, List.cons_append, List.cons.injEq] at todo
      obtain ⟨rfl, rfl⟩ := todo
      exact .within rfl (by simpa using payload) (sofar.frmByte d)
  | after todo => cases todo

/-- Takes and other commands keep the run where it stands, the framer's take it on to the end of its list. -/
theorem Sending.run {x p : List Byte} {es : List WireEvent} {s t : State} (h : Sending x p (framerCommands es) s)
    (he : s.blk.err = false) (hrun : runWire es s = some t) : Sending x p [] t := by
  induction es generalizing s with
  | nil => cases hrun; exact h
  | cons e es ih =>
    cases e with
    | take =>
      obtain ⟨hstream, hgroup, herr⟩ := sinkTake_stream s
      exact ih (h.congr hstream hgroup) (herr.trans he) hrun
    | perform i =>
      obtain ⟨hclear, hrun⟩ := runWire_perform he hrun
      refine ih ?_ hclear hrun
      rw [framerCommands_perform] at h
      cases hi : framerCommand i with
      | true =>
        rw [if_pos hi] at h
        exact h.effect
      | false =>
        rw [if_neg (by simp [hi])] at h
        refine h.congr ?_ (commandEffect_of_not_framer hi s.blk).1
        rw [withBlock_commandEffect_stream, emitted_of_not_framer hi, List.append_nil]

/-- Settles O53: a run that has performed all its framer commands stands behind FRM_CLOSE. -/
theorem streamingEqualsTheCall : Obligations.StreamingEqualsTheCall := by
  intro p es s t _ he _ hes hrun
  have hbefore : Sending s.stream p (framerCommands es) s := .before hes rfl
  cases hbefore.run he hrun with
  | before todo => cases todo
  | within todo => exact absurd todo.symm (List.append_ne_nil_of_right_ne_nil _ (List.cons_ne_nil _ _))
  | after _ fopen stream => exact ⟨stream, fopen⟩

end Sys2Proof.Machine
end

section
/-! PROOFS. 42_framer.md R158, R165: two machines that differ in META and in the responses given so far, run side by side. -/

namespace Sys2Proof.Machine

/-! ### The other machine -/

/-- The machine `s` with `m` in META and the responses `rs` given so far. -/
def State.observed (s : State) (m : Word) (rs : List Response) : State :=
  { s with blk := s.blk.setMeta m, responses := rs }

/-- Blocks that agree but for META. -/
theorem Block.eq_setMeta_of_agree {b b' : Block} (h : b'.setMeta 0#32 = b.setMeta 0#32) : b' = b.setMeta b'.metaWord := by
  cases b
  cases b'
  simpa [Block.setMeta] using h

/-- What differs from `s` in META and the responses alone. -/
theorem sameButMeta_iff {s s' : State} : SameButMeta s s' ↔ ∃ m rs, s' = s.observed m rs := by
  constructor
  · rintro ⟨hblk, hcfg, hport, hhostq, hturns, htx⟩
    refine ⟨s'.blk.metaWord, s'.responses, ?_⟩
    rw [State.observed, ← Block.eq_setMeta_of_agree hblk, ← hcfg, ← hport, ← hhostq, ← hturns, ← htx]
  · rintro ⟨m, rs, rfl⟩
    exact ⟨rfl, rfl, rfl, rfl, rfl, rfl⟩

/-! ### No command depends on META -/

@[simp] theorem commandCheck_setMeta (i : Instr) (b : Block) (m : Word) : commandCheck i (b.setMeta m) = commandCheck i b := by
  cases i <;> rfl

@[simp] theorem commandWaits_setMeta (i : Instr) (depth : Nat) (b : Block) (m : Word) :
    commandWaits i depth (b.setMeta m) = commandWaits i depth b := by
  cases i <;> rfl

theorem Block.raise_setMeta (b : Block) (e : CmdError) (m : Word) : (b.setMeta m).raise e = (b.raise e).setMeta m := by
  cases he : b.err with
  | false => rw [Block.raise_of_clear he, Block.raise_of_clear (b := b.setMeta m) he]; rfl
  | true => rw [Block.raise_of_latched he, Block.raise_of_latched (b := b.setMeta m) he]

theorem Block.setText_setMeta (b : Block) (x : TextField) (t : TextState) (m : Word) :
    (b.setMeta m).setText x t = (b.setText x t).setMeta m := by
  cases x <;> rfl

theorem putEffect_setMeta (x : TextField) (d : Byte) (b : Block) (m : Word) :
    putEffect x d (b.setMeta m) = (putEffect x d b).setMeta m := by
  have hclosed : (b.setMeta m).Closed x ↔ b.Closed x := by simp [Block.Closed]
  by_cases hc : b.Closed x
  · rw [putEffect_of_closed hc, putEffect_of_closed (hclosed.2 hc)]
  · by_cases hd : d = 0#8
    · subst hd
      rw [putEffect_nul hc, putEffect_nul (mt hclosed.1 hc), Block.setText_setMeta, Block.text_setMeta]
    · rw [putEffect_char hc hd, putEffect_char (mt hclosed.1 hc) hd, Block.text_setMeta]
      exact Block.setText_setMeta { b with record := b.record.write (x.offset + (b.text x).len) d } x _ m

theorem frmByteEffect_setMeta (d : Byte) (b : Block) (m : Word) :
    frmByteEffect d (b.setMeta m) = (frmByteEffect d b).setMeta m := by
  rcases gcnt_cases b.gcnt with hg | hg | hg
  · rw [frmByteEffect_of_gcnt_zero hg, frmByteEffect_of_gcnt_zero (b := b.setMeta m) hg]; rfl
  · rw [frmByteEffect_of_gcnt_one hg, frmByteEffect_of_gcnt_one (b := b.setMeta m) hg]; rfl
  · rw [frmByteEffect_of_gcnt_two hg, frmByteEffect_of_gcnt_two (b := b.setMeta m) hg]; rfl

/-- R158: a command's effect neither reads META nor writes it. -/
theorem commandEffect_setMeta (i : Instr) (b : Block) (m : Word) :
    commandEffect i (b.setMeta m) = (commandEffect i b).setMeta m := by
  cases i with
  | recPut f d =>
    simp only [commandEffect, recPutEffect]
    cases TextField.ofSelector f with
    | none => rfl
    | some x => exact putEffect_setMeta x d b m
  | frmByte d => exact frmByteEffect_setMeta d b m
  | _ => rfl

/-- A command does the same to both machines. -/
theorem exec_observed {i : Instr} {s u : State} (h : exec i s = .next u) (m : Word) (rs : List Response) :
    exec i (s.observed m rs) = .next (u.observed m rs) := by
  have hcheck : commandCheck i (s.observed m rs).blk = commandCheck i s.blk := commandCheck_setMeta i s.blk m
  have hwaits : commandWaits i s.cfg.outqDepth (s.observed m rs).blk = commandWaits i s.cfg.outqDepth s.blk :=
    commandWaits_setMeta i _ s.blk m
  have heffect : commandEffect i (s.observed m rs).blk = (commandEffect i s.blk).setMeta m := commandEffect_setMeta i s.blk m
  rcases exec_cases h with ⟨he, hx, rfl⟩ | ⟨he, e, hc, rfl⟩ | ⟨he, hc, hw, rfl⟩ | ⟨he, hc, hw, rfl⟩
  · rw [exec_eq_runCommand hx]
    exact runCommand_discard he
  · rw [exec_reject (s := s.observed m rs) he (hcheck.trans hc), Block.raise_of_clear he]
    rfl
  · exact exec_hold (s := s.observed m rs) he (hcheck.trans hc) (hwaits.trans hw)
  · rw [exec_effect (s := s.observed m rs) he (hcheck.trans hc) (hwaits.trans hw), heffect]
    rfl

/-- R91, 60_exceptions.md R203, R204: a word that fails a format check is rejected, and a rejection while an error is latched
changes as little as the discard. -/
theorem perform_of_format_error {w : Word} {e : DecodeError} (hd : decode w = .error e) (s : State) :
    perform w s = .next (s.withBlock (s.blk.raise (errorOfDecode e))) := by
  unfold perform
  split
  · next hdiscard =>
    have herr : s.blk.err = true := (Bool.and_eq_true_iff.1 hdiscard).1
    rw [Block.raise_of_latched herr]
    rfl
  · rw [hd]

/-- Performing a word does the same to both machines. -/
theorem perform_observed {w : Word} {s u : State} (h : perform w s = .next u) (m : Word) (rs : List Response) :
    perform w (s.observed m rs) = .next (u.observed m rs) := by
  cases hd : decode w with
  | error e =>
    rw [perform_of_format_error hd] at h ⊢
    cases h
    rw [show (s.observed m rs).blk.raise (errorOfDecode e) = _ from s.blk.raise_setMeta (errorOfDecode e) m]
    rfl
  | ok i =>
    rw [perform_of_decode hd] at h ⊢
    exact exec_observed h m rs

/-! ### Answers side by side -/

/-- Two outcomes, of machines that have given the responses `seen` and `seen'`, differ in META and in the responses alone: those given
now have the same status, and are the same where `same` holds. -/
inductive RunsAlike (seen seen' : List Response) (same : Prop) : Out → Out → Prop where
  | next {t : State} {r : List Response} (m : Word) (r' : List Response) (responses : t.responses = seen ++ r)
      (status : r.map Response.status = r'.map Response.status) (data : same → r = r') :
      RunsAlike seen seen' same (.next t) (.next (t.observed m (seen' ++ r')))
  | fault (e : Fault) : RunsAlike seen seen' same (.fault e) (.fault e)

section
variable {seen seen' : List Response} {same : Prop}

/-- Both give the responses `r`. -/
theorem RunsAlike.of_same {t : State} {r : List Response} (m : Word) (h : t.responses = seen ++ r) :
    RunsAlike seen seen' same (.next t) (.next (t.observed m (seen' ++ r))) :=
  .next m r h rfl fun _ => rfl

/-- Neither gives a response. -/
theorem RunsAlike.of_silent {t : State} (m : Word) (h : t.responses = seen) :
    RunsAlike seen seen' same (.next t) (.next (t.observed m seen')) := by
  simpa using RunsAlike.of_same (seen' := seen') (same := same) (r := []) m (by simpa using h)

theorem RunsAlike.mono {same' : Prop} {o o' : Out} (h : RunsAlike seen seen' same o o') (hs : same' → same) :
    RunsAlike seen seen' same' o o' := by
  cases h with
  | next m r' responses status data => exact .next m r' responses status fun h => data (hs h)
  | fault e => exact .fault e

theorem RunsAlike.fault_right {e : Fault} {o : Out} (h : RunsAlike seen seen' same (.fault e) o) : o = .fault e := by
  cases h; rfl

theorem RunsAlike.next_right {t : State} {o : Out} (h : RunsAlike seen seen' same (.next t) o) : ∃ m r r',
    o = .next (t.observed m (seen' ++ r')) ∧ t.responses = seen ++ r ∧
      r.map Response.status = r'.map Response.status ∧ (same → r = r') := by
  cases h with
  | next m r' responses status data => exact ⟨m, _, r', rfl, responses, status, data⟩

/-- A try of a CMD write completes in both with OKAY, or is held in both. -/
theorem tryCommand_alike (w : Word) (s : State) (m : Word) :
    RunsAlike s.responses seen' same (tryCommand w s) (tryCommand w (s.observed m seen')) := by
  obtain ⟨u, hu, h⟩ := tryCommand_completes_or_holds w s
  have htry : tryCommand w (s.observed m seen') = .next (acknowledge (u.observed m seen')) := by
    have hu' : perform w { s.observed m seen' with port := .free } = .next (u.observed m seen') := perform_observed hu m seen'
    rw [tryCommand, hu']
  rw [htry]
  rcases h with ⟨he, ht⟩ | ⟨-, he, ht⟩
  · rw [ht, he]
    exact .of_same m rfl
  · rw [ht, he]
    exact .of_silent m rfl

end

/-! ### Accesses -/

/-- R35: META is read at its own register alone. -/
theorem Block.readRegister_setMeta (b : Block) (m : Word) {off : Nat} (h : off ≠ frmMetaOffset) :
    (b.setMeta m).readRegister off = b.readRegister off := by
  simp only [Block.readRegister, if_neg h]
  rfl

theorem Block.readValue_setMeta (b : Block) (m : Word) {width : Width} {off : Nat} (h : ¬(width = .w32 ∧ off = frmMetaOffset)) :
    (b.setMeta m).readValue width off = b.readValue width off := by
  cases width with
  | w32 => rw [Block.readValue, Block.readRegister_setMeta b m fun ho => h ⟨rfl, ho⟩]; rfl
  | _ => rfl

/-- 20_memory.md R57: a read is answered OKAY exactly where it has a value. -/
theorem readResponse_status (v : Option Word) : (readResponse v).status = if v.isSome then .okay else .error := by
  cases v <;> rfl

/-- Whether a read is admitted depends on its width and offset alone (R56). -/
theorem Block.readValue_status (b b' : Block) (width : Width) (off : Nat) :
    (readResponse (b.readValue width off)).status = (readResponse (b'.readValue width off)).status := by
  simp only [readResponse_status, Block.readValue_isSome]

/-- 20_memory.md R51: an access outside the window stops the machine. -/
theorem hostAccess_read_outside {s : State} {addr : Nat} (width : Width) (h : windowOffset s.cfg addr = none) :
    hostAccess (.read width addr) s = .fault .outsideWindow := by simp [hostAccess, h]

theorem hostAccess_write_outside {s : State} {addr : Nat} (width : Width) (v : Word) (h : windowOffset s.cfg addr = none) :
    hostAccess (.write width addr v) s = .fault .outsideWindow := by simp [hostAccess, h]

/-- R165: an access tells the machines apart only by the data of a 32-bit read of FRM_META. -/
theorem hostAccess_alike (a : Access) (s : State) (m : Word) (rs : List Response) :
    RunsAlike s.responses rs (∀ addr, a = .read .w32 addr → windowOffset s.cfg addr ≠ some frmMetaOffset)
      (hostAccess a s) (hostAccess a (s.observed m rs)) := by
  cases a with
  | read width addr =>
    cases ho : windowOffset s.cfg addr with
    | none =>
      rw [hostAccess_read_outside width ho, hostAccess_read_outside (s := s.observed m rs) width ho]
      exact .fault _
    | some off =>
      rw [hostAccess_read ho, hostAccess_read (s := s.observed m rs) ho]
      refine .next m [readResponse ((s.blk.setMeta m).readValue width off)] rfl ?_ fun hsame => ?_
      · rw [List.map_singleton, List.map_singleton, s.blk.readValue_status (s.blk.setMeta m)]
      · have hother : ¬(width = .w32 ∧ off = frmMetaOffset) := by
          rintro ⟨rfl, rfl⟩
          exact hsame addr rfl ho
        rw [s.blk.readValue_setMeta m hother]
  | write width addr v =>
    cases ho : windowOffset s.cfg addr with
    | none =>
      rw [hostAccess_write_outside width v ho, hostAccess_write_outside (s := s.observed m rs) width v ho]
      exact .fault _
    | some off =>
      by_cases ha : AdmittedWrite width off
      · obtain ⟨rfl, rfl | rfl⟩ := ha
        · rw [hostAccess_cmd v ho, hostAccess_cmd (s := s.observed m rs) v ho]
          exact tryCommand_alike v s m
        · rw [hostAccess_meta v ho, hostAccess_meta (s := s.observed m rs) v ho]
          exact .of_same v rfl
      · rw [hostAccess_write_error v ho ha, hostAccess_write_error (s := s.observed m rs) v ho ha]
        exact .of_same m rfl

/-! ### Steps -/

theorem sinkTake_observed (s : State) (m : Word) (rs : List Response) :
    sinkTake (s.observed m rs) = (sinkTake s).observed m rs := by
  cases hq : s.blk.outq with
  | nil => rw [sinkTake_of_empty hq, sinkTake_of_empty (s := s.observed m rs) hq]
  | cons b q => rw [sinkTake_of_cons hq, sinkTake_of_cons (s := s.observed m rs) hq]; rfl

/-- 60_exceptions.md R209: on its turn reset has the step, whatever is pending. -/
theorem step_of_reset {s : State} {ts : List Turn} (hn : nextTurn s.turns = (.reset, ts)) :
    step s = .next { resetStep s with turns := ts } := by
  simp only [step, nextStep, hn]

/-- Log entry 4: a host's turn with no try due and no access to make passes. -/
theorem step_of_idle {s : State} {ts : List Turn} (hn : nextTurn s.turns = (.host, ts)) (hp : ∀ w, s.port ≠ .retry w)
    (ha : nextAccess s = none) : step s = .next { s with turns := ts } := by
  simp only [step, nextStep, hn]
  cases hport : s.port with
  | retry w => exact absurd hport (hp w)
  | held w => simp [hostTurn]
  | free =>
    have hq : s.hostq = [] := by simpa [nextAccess, hn, hport] using ha
    simp [hostTurn, hq]

/-- The host makes no access while a write is pending (20_memory.md R60). -/
theorem port_of_nextAccess {s : State} {a : Access} (h : nextAccess s = some a) : s.port = .free := by
  unfold nextAccess at h
  split at h
  · assumption
  · cases h

/-- R158, R165: every step of the two machines, agent by agent. -/
theorem step_alike (s : State) (m : Word) (rs : List Response) :
    RunsAlike s.responses rs (∀ addr, nextAccess s = some (.read .w32 addr) → windowOffset s.cfg addr ≠ some frmMetaOffset)
      (step s) (step (s.observed m rs)) := by
  rcases hn : nextTurn s.turns with ⟨x, ts⟩
  by_cases hr : resetsNext s = true
  · obtain rfl : x = .reset := by simpa [resetsNext, hn] using hr
    rw [step_of_reset hn, step_of_reset (s := s.observed m rs) hn]
    exact .of_silent 0#32 rfl
  · have hr : resetsNext s = false := by simpa using hr
    by_cases hp : ∃ w, s.port = .retry w
    · obtain ⟨w, hp⟩ := hp
      rw [step_of_retry hp hr, step_of_retry (s := s.observed m rs) hp hr]
      exact tryCommand_alike w { s with turns := if (nextTurn s.turns).1 = .host then (nextTurn s.turns).2 else s.turns } m
    · have hp : ∀ w, s.port ≠ .retry w := not_exists.1 hp
      cases x with
      | reset => simp [resetsNext, hn] at hr
      | sink =>
        rw [step_of_sink hn hp, step_of_sink (s := s.observed m rs) hn hp]
        exact sinkTake_observed { s with turns := ts } m rs ▸ .of_silent m (by simp)
      | host =>
        cases ha : nextAccess s with
        | none =>
          rw [step_of_idle hn hp ha, step_of_idle (s := s.observed m rs) hn hp ha]
          exact .of_silent m rfl
        | some a =>
          have hfree := port_of_nextAccess ha
          rw [step_of_nextAccess hfree ha, step_of_nextAccess (s := s.observed m rs) hfree ha]
          exact (hostAccess_alike a { s with hostq := s.hostq.tail, turns := (nextTurn s.turns).2 } m rs).mono
            fun h addr he => h addr (congrArg some he)

/-- Settles O58: the two machines' steps run alike, and META and the responses are all they differ in. -/
theorem metaInfluencesNothingElse : Obligations.MetaInfluencesNothingElse := by
  intro s s' hsame
  obtain ⟨m, rs, rfl⟩ := sameButMeta_iff.1 hsame
  have halike := step_alike s m rs
  refine ⟨fun e hs => ?_, fun t ht => ?_⟩
  · rw [hs] at halike
    exact halike.fault_right
  · rw [ht] at halike
    obtain ⟨m', r, r', hstep, hresponses, hstatus, hdata⟩ := halike.next_right
    exact ⟨_, hstep, sameButMeta_iff.2 ⟨m', _, rfl⟩, r, r', hresponses, rfl, hstatus, hdata⟩

end Sys2Proof.Machine
end

section
/-! PROOFS. 43_control.md R180, R181: what NOP and CLR_ERR do, and that no word but NOP's leaves every state as it is. -/

namespace Sys2Proof.Machine

/-! ### Words with a reserved bit -/

/-- R85, 60_exceptions.md R203, R204: a word of an opcode with a reserved bit set is rejected with RSVD, which changes nothing while an
error is latched. -/
theorem perform_of_reserved_bit {o : Opcode} {w : Word} (ho : opField w = o.bits) (hm : w &&& o.mbz ≠ 0#32) (s : State) :
    (s.blk.err = false → perform w s = .next (s.rejected 2#4)) ∧ (s.blk.err = true → perform w s = .next s) := by
  have hd : decode w = .error .reserved := by simp [decode, ho, hm]
  refine ⟨fun he => perform_of_decode_error he hd, fun he => ?_⟩
  rw [perform_of_format_error hd, Block.raise_of_latched he]
  rfl

/-! ### CLR_ERR -/

theorem exec_clrErr (s : State) : exec .clrErr s = .next (s.withBlock s.blk.clearError) := rfl

/-- R181: where no error is latched there is nothing to clear. -/
theorem Block.clearError_of_clear {b : Block} (he : b.err = false) (hc : b.ecode = 0#4) : b.clearError = b := by
  rw [Block.clearError, ← he, ← hc]

/-- Settles O9: the effect of CLR_ERR, whose word decodes to it. -/
theorem clearErrorClearsTheLatchAlone : Obligations.ClearErrorClearsTheLatchAlone := by
  refine fun s => ⟨rfl, rfl, perform_of_decode (encodeThenDecodeIsIdentity .clrErr) s, fun he hc => ?_,
    fun w ho hm => perform_of_reserved_bit (o := .clrErr) ho hm s⟩
  rw [exec_clrErr, Block.clearError_of_clear he hc]
  rfl

/-! ### The only word that changes nothing -/

/-- A command that leaves a state with no error latched and no write pending as it is has passed its check, and its effect leaves the
block: a rejection would latch an error, and a hold would take the port. -/
theorem check_and_effect_of_exec_eq_self {i : Instr} {s : State} (he : s.blk.err = false) (hp : s.port = .free)
    (h : exec i s = .next s) : commandCheck i s.blk = none ∧ commandEffect i s.blk = s.blk := by
  rcases exec_cases h with ⟨herr, -, -⟩ | ⟨-, e, -, hs⟩ | ⟨-, -, -, hs⟩ | ⟨-, hc, -, hs⟩
  · rw [he] at herr; cases herr
  · have herr : s.blk.err = (s.blk.raise e).err := congrArg (·.blk.err) hs
    rw [Block.raise_of_clear he, he] at herr
    cases herr
  · have hport : s.port = .held (encode i) := congrArg State.port hs
    rw [hp] at hport
    cases hport
  · exact ⟨hc, (congrArg State.blk hs).symm⟩

/-- 40_crc.md R101: on an accumulator that differs from the byte in the low bit alone the step answers 0x77073096, whose high bits
such an accumulator does not have. -/
theorem crcStep_xor_one_ne_self (d : Byte) : crcStep (d.setWidth 32 ^^^ 1#32) d ≠ d.setWidth 32 ^^^ 1#32 := by
  have hstep : crcStep (d.setWidth 32 ^^^ 1#32) d = 0x77073096#32 := by
    rw [crcStep, BitVec.xor_comm _ 1#32, BitVec.xor_assoc, BitVec.xor_self, BitVec.xor_zero]
    decide
  intro h
  have htop : (d.setWidth 32 ^^^ 1#32).getLsbD 30 = true := by rw [← h, hstep]; decide
  simp at htop

/-- REC_PUT of any selector is rejected where no record is being built. -/
theorem recPutCheck_ne_none {b : Block} (hb : b.rstate ≠ .building) (f : BitVec 3) : recPutCheck f b ≠ none := by
  unfold recPutCheck
  split
  · simp
  · simp [needsBuilding, hb]

/-- R180: NOP is the only command that leaves every state as it is. Reset's block shows it of most others: they are rejected there, or
open a record or a frame. CLR_ERR needs a latched error, and the CRC commands an accumulator they change. -/
theorem eq_nop_of_exec_eq_self {i : Instr} (h : ∀ s, exec i s = .next s) : i = .nop := by
  have hfix (b : Block) (he : b.err = false) : commandCheck i b = none ∧ commandEffect i b = b :=
    check_and_effect_of_exec_eq_self (s := State.reset.withBlock b) he rfl (h _)
  obtain ⟨hcheck, heffect⟩ := hfix Block.reset rfl
  cases i with
  | nop => rfl
  | crcInit => exact absurd (congrArg Block.acc (hfix { Block.reset with acc := 0#32 } rfl).2) (by decide)
  | crcByte d =>
    exact absurd (congrArg Block.acc (hfix { Block.reset with acc := d.setWidth 32 ^^^ 1#32 } rfl).2) (crcStep_xor_one_ne_self d)
  | recBegin => cases congrArg Block.rstate heffect
  | recPut f d => exact absurd hcheck (recPutCheck_ne_none (by decide) f)
  | recDirty v => cases hcheck
  | recSeal => cases hcheck
  | frmOpen => cases congrArg Block.fopen heffect
  | frmByte d => cases hcheck
  | frmClose => cases hcheck
  | clrErr =>
    have hs := h (State.reset.rejected 1#4)
    injection hs with hs
    cases congrArg (·.blk.err) hs

/-- R180: a word that leaves every state as it is decodes, since reset's state shows a rejection, and decodes to NOP. -/
theorem eq_zero_of_perform_eq_self {w : Word} (h : ∀ s, perform w s = .next s) : w = 0x00000000#32 := by
  cases hd : decode w with
  | error e =>
    have hs := h State.reset
    rw [perform_of_decode_error rfl hd] at hs
    injection hs with hs
    cases congrArg (·.blk.err) hs
  | ok i =>
    obtain rfl := eq_nop_of_exec_eq_self fun s => (perform_of_decode hd s).symm.trans (h s)
    exact (encode_of_decode hd).symm

/-- 20_memory.md R60: no access starts while a write is pending. -/
theorem nextAccess_of_pending {s : State} {w : Word} (h : s.port.word? = some w) : nextAccess s = none := by
  refine Option.eq_none_iff_forall_ne_some.2 fun a ha => ?_
  rw [port_of_nextAccess ha] at h
  cases h

/-- Settles O8: NOP's word decodes to it and no other word leaves every state as it is. -/
theorem nopChangesNothing : Obligations.NopChangesNothing :=
  ⟨fun s => ⟨rfl, rfl, perform_of_decode (encodeThenDecodeIsIdentity .nop) s,
      fun _ ho hm => perform_of_reserved_bit (o := .nop) ho hm s⟩,
    fun _ => eq_zero_of_perform_eq_self, fun _ _ => nextAccess_of_pending⟩

end Sys2Proof.Machine
end

section
/-! PROOFS. 60_exceptions.md R200 to R204: the order of a command's checks, and the discard while an error is latched. -/

namespace Sys2Proof.Machine

/-! ### The checks a command makes after the format checks (R201) -/

/-- 30_encoding.md R83: the selectors above 3 name no string field. -/
theorem TextField.ofSelector_eq_none_iff {f : BitVec 3} : TextField.ofSelector f = none ↔ 3 < f.toNat := by
  revert f; decide

theorem recPutCheck_of_no_field {f : BitVec 3} (h : 3 < f.toNat) (b : Block) : recPutCheck f b = some .badField := by
  rw [recPutCheck, TextField.ofSelector_eq_none_iff.2 h]

/-- R202: BAD_FIELD comes before REC_STATE, which is all that is left for a selector of a string field. -/
theorem recPutCheck_of_field {f : BitVec 3} (h : f.toNat ≤ 3) (b : Block) : recPutCheck f b = needsBuilding b := by
  have hf : TextField.ofSelector f ≠ none := fun hn => absurd (TextField.ofSelector_eq_none_iff.1 hn) (by omega)
  obtain ⟨x, hx⟩ := Option.ne_none_iff_exists'.1 hf
  rw [recPutCheck, hx]

theorem needsBuilding_of_not_building {b : Block} (h : b.rstate ≠ .building) : needsBuilding b = some .recState := if_neg h

theorem needsNoFrame_of_open {b : Block} (h : b.fopen = true) : needsNoFrame b = some .frmState := if_pos h

theorem needsFrame_of_closed {b : Block} (h : b.fopen = false) : needsFrame b = some .frmState := by simp [needsFrame, h]

/-- R201: the record commands but REC_BEGIN need a record being built, REC_PUT once its selector has passed. -/
theorem commandCheck_of_recordOpcode {o : Opcode} {w : Word} (hsel : o = .recPut → (selectorField w).toNat ≤ 3)
    (ho : o = .recPut ∨ o = .recDirty ∨ o = .recSeal) (b : Block) : commandCheck (o.operands w) b = needsBuilding b := by
  rcases ho with rfl | rfl | rfl
  · exact recPutCheck_of_field (hsel rfl) b
  · rfl
  · rfl

/-- R201: the conditions under which a command passes every check it makes. -/
theorem commandCheck_of_ready {o : Opcode} {w : Word} {b : Block} (hsel : o = .recPut → (selectorField w).toNat ≤ 3)
    (hrecord : o = .recPut ∨ o = .recDirty ∨ o = .recSeal → b.rstate = .building) (hopen : o = .frmOpen → b.fopen = false)
    (hframe : o = .frmByte ∨ o = .frmClose → b.fopen = true) : commandCheck (o.operands w) b = none := by
  have hbuilding (ho : o = .recPut ∨ o = .recDirty ∨ o = .recSeal) : commandCheck (o.operands w) b = none :=
    (commandCheck_of_recordOpcode hsel ho b).trans (needsBuilding_of_building (hrecord ho))
  cases o with
  | recPut => exact hbuilding (.inl rfl)
  | recDirty => exact hbuilding (.inr (.inl rfl))
  | recSeal => exact hbuilding (.inr (.inr rfl))
  | frmOpen => exact needsNoFrame_of_closed (hopen rfl)
  | frmByte => exact needsFrame_of_open (hframe (.inl rfl))
  | frmClose => exact needsFrame_of_open (hframe (.inr rfl))
  | _ => rfl

/-! ### Performing a word with no error latched -/

/-- R203: a word that passes the format checks and fails its command's own is rejected with that check's code. -/
theorem perform_of_failed_check {o : Opcode} {w : Word} {s : State} {e : CmdError} (he : s.blk.err = false)
    (ho : opField w = o.bits) (hm : w &&& o.mbz = 0#32) (hc : commandCheck (o.operands w) s.blk = some e) :
    perform w s = .next (s.rejected e.code) :=
  (perform_of_decode (decode_of_accepted ho hm) s).trans (exec_reject he hc)

/-- R202: a word that passes every check is executed or held. -/
theorem perform_of_passed_checks {o : Opcode} {w : Word} {s : State} (he : s.blk.err = false) (ho : opField w = o.bits)
    (hm : w &&& o.mbz = 0#32) (hc : commandCheck (o.operands w) s.blk = none) :
    perform w s = .next { s with blk := commandEffect (o.operands w) s.blk } ∨ perform w s = .next { s with port := .held w } := by
  have hd := decode_of_accepted ho hm
  rw [perform_of_decode hd]
  rcases exec_of_executes (executes_iff.2 ⟨.inl he, hc⟩) with ⟨-, hheld⟩ | ⟨-, heffect⟩
  · rw [State.hold, encode_of_decode hd] at hheld
    exact .inr hheld
  · exact .inl heffect

/-- R203, R208: no effect latches an error; CLR_ERR's clears the code and no other touches it. -/
theorem commandEffect_of_clear {b : Block} (he : b.err = false) (i : Instr) :
    (commandEffect i b).err = false ∧ (commandEffect i b).ecode = if i.opcode = .clrErr then 0#4 else b.ecode := by
  cases i with
  | clrErr => exact ⟨rfl, rfl⟩
  | recPut f d => exact ⟨(recPutEffect_err f d b).trans he, recPutEffect_ecode f d b⟩
  | frmByte d => exact ⟨(frmByteEffect_err d b).trans he, frmByteEffect_ecode d b⟩
  | _ => exact ⟨he, rfl⟩

/-! ### Performing a word while an error is latched (R204) -/

theorem exemptOp_of_ne {op : BitVec 8} (hnop : op ≠ 0x00#8) (hclr : op ≠ 0x7F#8) : exemptOp op = false := by
  simp [exemptOp, Opcode.bits, hnop, hclr]

theorem perform_of_latched {w : Word} {s : State} (he : s.blk.err = true) (hx : exemptOp (opField w) = false) :
    perform w s = .next s := by simp [perform, he, hx]

/-- The write of a discarded command completes with OKAY. -/
theorem tryCommand_of_latched {w : Word} {s : State} (he : s.blk.err = true) (hx : exemptOp (opField w) = false) :
    tryCommand w s = .next (s.completed s.blk) := by
  rw [tryCommand, perform_of_latched (s := { s with port := .free }) he hx]
  rfl

/-! ### The order of the checks, and the discard -/

/-- Settles O6: the checks in their order, each clause with the check it names, the earlier ones passed. -/
theorem performReportsTheFirstFailingCheck : Obligations.PerformReportsTheFirstFailingCheck := by
  intro w s
  refine ⟨fun he hnop hclr => perform_of_latched he (exemptOp_of_ne hnop hclr), fun he =>
    ⟨fun hill => perform_of_decode_error he (decode_of_illegalOp hill), fun o ho =>
      ⟨fun hm => (perform_of_reserved_bit ho hm s).1 he, fun hm => ⟨?_, ?_, ?_, ?_, ?_⟩⟩⟩⟩
  · rintro rfl hsel
    exact perform_of_failed_check he ho hm (recPutCheck_of_no_field hsel s.blk)
  · intro hsel hrecord hb
    exact perform_of_failed_check he ho hm
      ((commandCheck_of_recordOpcode hsel hrecord s.blk).trans (needsBuilding_of_not_building hb))
  · rintro rfl hopen
    exact perform_of_failed_check he ho hm (needsNoFrame_of_open hopen)
  · rintro (rfl | rfl) hclosed
    · exact perform_of_failed_check he ho hm (needsFrame_of_closed hclosed)
    · exact perform_of_failed_check he ho hm (needsFrame_of_closed hclosed)
  · intro hsel hrecord hopen hframe
    refine ⟨o.operands w, decode_of_accepted ho hm, o.opcode_operands w, ?_⟩
    have hlatch := commandEffect_of_clear he (o.operands w)
    rw [o.opcode_operands w] at hlatch
    exact (perform_of_passed_checks he ho hm (commandCheck_of_ready hsel hrecord hopen hframe)).imp_left (⟨·, hlatch⟩)

/-- Settles O7: the discard, the rejection of a reserved bit, and what NOP and CLR_ERR do in any state. -/
theorem latchedErrorDiscardsCommands : Obligations.LatchedErrorDiscardsCommands := by
  intro w s he
  refine ⟨fun hnop hclr => ?_, ?_, ?_, ?_⟩
  · have hx := exemptOp_of_ne hnop hclr
    exact ⟨perform_of_latched he hx, tryCommand_of_latched he hx⟩
  · rintro (ho | ho) hm
    · exact (perform_of_reserved_bit (o := .nop) ho hm s).2 he
    · exact (perform_of_reserved_bit (o := .clrErr) ho hm s).2 he
  · rintro rfl
    exact perform_of_decode (encodeThenDecodeIsIdentity .nop) s
  · rintro rfl
    exact perform_of_decode (encodeThenDecodeIsIdentity .clrErr) s

end Sys2Proof.Machine
end

section
/-! PROOFS. 60_exceptions.md R200, R209: the only stop of a step, and reset around the try of a held write. -/

namespace Sys2Proof.Machine

/-! ### The window -/

/-- The bus address of an access. -/
def Access.addr : Access → Nat
  | .read _ addr => addr
  | .write _ addr _ => addr

/-- 20_memory.md R51: the addresses outside the window. -/
theorem windowOffset_eq_none_iff {c : Config} {addr : Nat} :
    windowOffset c addr = none ↔ addr < c.baseAddr ∨ c.baseAddr + 0xFF < addr := by
  simp only [windowOffset, ite_eq_right_iff, reduceCtorEq, imp_false]
  omega

theorem hostAccess_outside {a : Access} {s : State} (h : windowOffset s.cfg a.addr = none) :
    hostAccess a s = .fault .outsideWindow := by
  cases a with
  | read width addr => exact hostAccess_read_outside width h
  | write width addr v => exact hostAccess_write_outside width v h

/-- 20_memory.md R52 to R57: an access to the window answers a next state. -/
theorem hostAccess_answers {a : Access} {s : State} {off : Nat} (h : windowOffset s.cfg a.addr = some off) :
    ∃ t, hostAccess a s = .next t := by
  cases a with
  | read width addr => exact ⟨_, hostAccess_read h⟩
  | write width addr v =>
    by_cases ha : AdmittedWrite width off
    · obtain ⟨rfl, rfl | rfl⟩ := ha
      · exact hostAccess_cmd v h ▸ tryCommand_answers v s
      · exact ⟨_, hostAccess_meta v h⟩
    · exact ⟨_, hostAccess_write_error v h ha⟩

/-! ### The stops of a step -/

/-- A step in which the host makes no access answers a next state. -/
theorem step_answers_of_no_access {s : State} (ha : nextAccess s = none) : ∃ t, step s = .next t := by
  rcases hn : nextTurn s.turns with ⟨x, ts⟩
  by_cases hx : x = .reset
  · subst hx
    exact ⟨_, step_of_reset hn⟩
  · have hr : resetsNext s = false := by simp [resetsNext, hn, hx]
    by_cases hp : ∃ w, s.port = .retry w
    · obtain ⟨w, hp⟩ := hp
      exact step_of_retry hp hr ▸ tryCommand_answers w _
    · have hp : ∀ w, s.port ≠ .retry w := not_exists.1 hp
      cases x with
      | host => exact ⟨_, step_of_idle hn hp ha⟩
      | sink => exact ⟨_, step_of_sink hn hp⟩
      | reset => exact absurd rfl hx

/-- R200: a step answers a next state, or faults on the host's access outside the window. -/
theorem step_answers_or_faults (s : State) :
    ((∃ t, step s = .next t) ∧ ∀ a, nextAccess s = some a → windowOffset s.cfg a.addr ≠ none) ∨
    (step s = .fault .outsideWindow ∧ ∃ a, nextAccess s = some a ∧ windowOffset s.cfg a.addr = none) := by
  cases ha : nextAccess s with
  | none => exact .inl ⟨step_answers_of_no_access ha, by simp⟩
  | some a =>
    rw [step_of_nextAccess (port_of_nextAccess ha) ha]
    cases ho : windowOffset s.cfg a.addr with
    | none => exact .inr ⟨hostAccess_outside ho, a, rfl, ho⟩
    | some off =>
      refine .inl ⟨hostAccess_answers (off := off) ho, ?_⟩
      rintro _ ⟨⟩
      simp [ho]

theorem step_stops (s : State) : (∀ r, step s ≠ .refused r) ∧
    ((∃ r, step s = .fault r) ↔ ∃ a, nextAccess s = some a ∧ windowOffset s.cfg a.addr = none) := by
  rcases step_answers_or_faults s with ⟨⟨t, ht⟩, hin⟩ | ⟨hf, hout⟩
  · exact ⟨by simp [ht], by simpa [ht] using hin⟩
  · exact ⟨by simp [hf], iff_of_true ⟨_, hf⟩ hout⟩

/-- Settles O42: the stops of a step, with the window's two bounds written out. -/
theorem stepStopsOnlyOutsideTheWindow : Obligations.StepStopsOnlyOutsideTheWindow := by
  intro s
  obtain ⟨hrefused, hfault⟩ := step_stops s
  refine ⟨hrefused, hfault.trans (exists_congr fun a => and_congr_right fun _ => ?_)⟩
  cases a with
  | read width addr => exact windowOffset_eq_none_iff
  | write width addr v => exact windowOffset_eq_none_iff

/-! ### Reset around the try of a held write -/

/-- 20_memory.md R60: on the sink's turn a take while `w` is held makes its try due. -/
theorem step_take_makes_try_due {s : State} {w : Word} {b : Byte} {q : List Byte} {ts : List Turn} (hp : s.port = .held w)
    (hq : s.blk.outq = b :: q) (ht : s.turns = .sink :: ts) :
    step s = .next { s with blk := { s.blk with outq := q }, port := .retry w, turns := ts, tx := s.tx ++ [b] } := by
  rw [step_of_sink (congrArg nextTurn ht) (by simp [hp]), sinkTake_of_cons (s := { s with turns := ts }) hq, hp]
  rfl

/-- R209: a due try on the host's turn and then reset: a try that completes leaves its OKAY on record, and one that holds the write
again leaves nothing. -/
theorem run_try_then_reset {s : State} {w : Word} {ts : List Turn} (hp : s.port = .retry w)
    (ht : s.turns = .host :: .reset :: ts) :
    ∃ u, perform w { s with port := .free, turns := .reset :: ts } = .next u ∧
      Host.Core.run Sys2Proof.core 2 s = .next { s with
        blk := Block.reset, port := .free, turns := ts
        responses := if u.port = .free then s.responses ++ [⟨.okay, none⟩] else s.responses } := by
  have htry : step s = tryCommand w { s with turns := .reset :: ts } := by
    rw [step_of_retry hp (by rw [resetsNext, ht]; rfl), ht]
    rfl
  obtain ⟨u, hu, ⟨he, hdone⟩ | ⟨-, he, hheld⟩⟩ := tryCommand_completes_or_holds w { s with turns := .reset :: ts }
  · refine ⟨u, hu, ?_⟩
    rw [run_succ_of_step (htry.trans hdone), run_succ_of_step (step_of_reset rfl), he]
    rfl
  · refine ⟨u, hu, ?_⟩
    rw [run_succ_of_step (htry.trans hheld), run_succ_of_step (step_of_reset rfl), he]
    rfl

/-- Settles O60: the take makes the try due, and then reset comes at once or after the try. -/
theorem resetFallsBeforeOrAfterATry : Obligations.ResetFallsBeforeOrAfterATry := by
  intro s w b q ts hp hq
  refine ⟨fun ht => ?_, fun ht => ?_⟩
  · rw [run_succ_of_step (step_take_makes_try_due hp hq ht), run_succ_of_step (step_of_reset rfl)]
    rfl
  · rw [run_succ_of_step (step_take_makes_try_due hp hq ht)]
    exact run_try_then_reset (ts := ts) (s := { s with
      blk := { s.blk with outq := q }, port := .retry w, turns := .host :: .reset :: ts, tx := s.tx ++ [b] }) rfl rfl

end Sys2Proof.Machine
end

section
/-! PROOFS. 70_reset_and_hazards.md R230 to R234: the values after reset, a reset step, and the idle machine. -/

namespace Sys2Proof.Machine

/-! ### The block after reset -/

theorem Block.reset_record_read (i : Nat) : Block.reset.record.read i = 0#8 := Memory.read_nil i

theorem Block.reset_text (f : TextField) : Block.reset.text f = .cleared := by
  cases f <;> rfl

/-- 10_state.md R25: with every field 0 and no byte queued, STATUS is 0. -/
theorem Block.reset_status : Block.reset.status = 0#32 := by decide

theorem wordLE_replicate_zero (n : Nat) : wordLE (List.replicate n 0#8) = 0#32 := by
  induction n with
  | zero => rfl
  | succ n ih => simp [List.replicate_succ, wordLE, ih]

/-- 20_memory.md R54: every byte of the window reads 0, its last offset and the record's bytes alike. -/
theorem Block.reset_windowByte (o : Nat) : Block.reset.windowByte o = 0#8 := by
  simp [Block.windowByte, Block.reset_record_read]

theorem Block.reset_readRec (off n : Nat) : Block.reset.readRec off n = 0#32 := by
  simp [Block.readRec, Block.reset_windowByte, wordLE_replicate_zero]

/-- 20_memory.md R53: an aligned read of the REC window, at each of the three widths. -/
theorem Block.reset_readValue_rec {width : Width} {off : Nat} (hlo : recBase ≤ off) (hhi : off ≤ recLast)
    (ha : off % width.bytes = 0) : Block.reset.readValue width off = some 0#32 := by
  rw [Block.readValue_rec _ hlo hhi ha, Block.reset_readRec]

/-- Settles O34: the elements as `Block.reset` lists them, the registers and the window by the values of their reads. -/
theorem resetLeavesEveryElementAtItsValue : Obligations.ResetLeavesEveryElementAtItsValue := by
  intro c
  obtain ⟨hstatus, hacc, hout, hmeta, -⟩ := readsReturnTheRegisters Block.reset .w8 recBase
  rw [Block.reset_status] at hstatus
  exact ⟨rfl, Block.reset_record_read, rfl, Block.reset_text, rfl, rfl, rfl, rfl, rfl, rfl, rfl, rfl, hstatus, hacc, hout, hmeta,
    fun off hlo hhi => Block.reset_readValue_rec (width := .w8) hlo hhi (Nat.mod_one off)⟩

/-! ### Reset and idle steps -/

/-- Settles O35: reset has the step, whatever the port holds, and `resetStep` writes the block and the port alone. -/
theorem resetStepAbandonsAndKeepsTheWire : Obligations.ResetStepAbandonsAndKeepsTheWire := by
  intro s ts ht
  exact step_of_reset (congrArg nextTurn ht)

theorem nextAccess_of_hostq_nil {s : State} (hq : s.hostq = []) : nextAccess s = none := by
  unfold nextAccess
  split
  · rw [hq]; rfl
  · rfl

/-- Settles O40: the step is the host's, which has no access to make, and no turn is used up. -/
theorem idleChangesNothing : Obligations.IdleChangesNothing := by
  intro s hq ht hp
  calc step s = .next { s with turns := [] } := step_of_idle (congrArg nextTurn ht) hp (nextAccess_of_hostq_nil hq)
    _ = .next s := by rw [← ht]

end Sys2Proof.Machine
end
